-- ==== Sys2Proof/Word.lean ====
section
/-! DEFINITION. The word types of AEZC (00_scope.md R9 to R11). -/

namespace Sys2Proof

/-- A byte, 0x00..0xFF (R9). -/
abbrev Byte := BitVec 8

/-- A 32-bit CSR, command or operand word (R7, R11). -/
abbrev Word := BitVec 32

/-- A block of 16 bytes, held as its big-endian integer `int(b)` (R10): byte 0 is bits 127..120.
So a 32-digit hex literal reads as the spec prints a block, byte 0 first. -/
abbrev Block := BitVec 128

end Sys2Proof
end

