-- ==== Sys2Proof/Syntax.lean ====
section
/-! DEFINITION. The twenty commands of the opcode map (30_encoding.md R115), one constructor per row of
spec/opcode_table.json. Numeric operands are not part of a command word: they come from ARG (R114). -/

namespace Sys2Proof

/-- A block register number, the 3-bit fields RD, RA and RB (R113). -/
abbrev Reg := Fin 8

/-- A command of R115, with the fields its row reads. -/
inductive Instr where
  /-- 0x00 NOP (R150). -/
  | nop
  /-- 0x01 DBL (R152). -/
  | dbl (rd ra : Reg)
  /-- 0x02 XOR (R151). -/
  | xor (rd ra rb : Reg)
  /-- 0x03 MULI (R153): n = ARG0. -/
  | muli (rd ra : Reg)
  /-- 0x04 AESR (R180): RA the state, RB the round key. -/
  | aesr (rd ra rb : Reg)
  /-- 0x05 AES4 (R181), with the explicit schedule RK. -/
  | aes4 (rd ra : Reg)
  /-- 0x06 LDRK (R182): F the register number, ALL = all four. -/
  | ldrk (ra : Reg) (f : Fin 4) (all : Bool)
  /-- 0x07 LDKEY (R183): F = 0 KI, 1 KJ, 2 KL. -/
  | ldkey (ra : Reg) (f : Fin 4)
  /-- 0x08 OFS (R210): j = ARG0, i = ARG1 signed. -/
  | ofs (rd : Reg)
  /-- 0x09 E (R211): j = ARG0, i = ARG1 signed. -/
  | e (rd ra : Reg)
  /-- 0x0A LDD (R156). -/
  | ldd (ra : Reg)
  /-- 0x0B STD (R157). -/
  | std (rd : Reg)
  /-- 0x0C LDB (R154): address = ARG0. -/
  | ldb (rd : Reg)
  /-- 0x0D STB (R155): address = ARG0. -/
  | stb (ra : Reg)
  /-- 0x0E ZERO (R160). -/
  | zero
  /-- 0x10 HINIT (R235): tau in bits = ARG0. -/
  | hinit
  /-- 0x11 HABS (R236): source ARG0, length ARG1, tweak index ARG2. -/
  | habs
  /-- 0x18 PRF (R252): destination ARG0, length ARG1. -/
  | prf
  /-- 0x20 ENC (R276): source ARG0, destination ARG1, length ARG2. -/
  | enc
  /-- 0x21 DEC (R277): as ENC. -/
  | dec
deriving DecidableEq, Repr

end Sys2Proof
end

