-- ==== Sys2Proof/WellFormed.lean ====
section
/-! DEFINITION. The commands that some legal command word stands for: the two combinations R112 forbids are refused. -/

namespace Sys2Proof

/-- A command some legal command word encodes (R112, R116 (d), (e)): LDKEY has F below 3, LDRK with ALL = 1 has F = 0. -/
def Instr.wellFormed : Instr → Bool
  | .ldkey _ f => f != 3
  | .ldrk _ f all => !all || f == 0
  | .nop | .dbl _ _ | .xor _ _ _ | .muli _ _ | .aesr _ _ _ | .aes4 _ _ | .ofs _ | .e _ _ | .ldd _ | .std _ | .ldb _
  | .stb _ | .zero | .hinit | .habs | .prf | .enc | .dec => true

end Sys2Proof
end

