-- ==== Sys2Proof/Decode.lean ====
section
/-! DEFINITION. The decoder of command words (30_encoding.md R110 to R116), total on all 2^32 words and rejecting by
name, and the encoder. -/

namespace Sys2Proof

/-- Why a command word is illegal (R116); of several reasons one is named (log entry 18). Each completes with error ILLEGAL
(R302). -/
inductive Reject where
  /-- R116 (a): an opcode outside the map of R115. -/
  | unknownOpcode
  /-- R116 (b): bit 11, 15, 19 or one of 31:23 is 1. -/
  | reservedBit
  /-- R116 (c): a field the opcode does not use is not 0. -/
  | unusedField
  /-- R116 (d): LDKEY with F = 3. -/
  | ldkeySelector
  /-- R116 (e): LDRK with ALL = 1 and F not 0. -/
  | ldrkSelector
deriving DecidableEq, Repr

/-- The fields of a command word beside OPC (R111). -/
inductive Field where
  | rd | ra | rb | f | all
deriving DecidableEq, Repr

/-- The bits a field occupies (R111). -/
def Field.mask : Field → Word
  | .rd => 0x00000700#32
  | .ra => 0x00007000#32
  | .rb => 0x00070000#32
  | .f => 0x00300000#32
  | .all => 0x00400000#32

/-- The reserved bits 11, 15, 19 and 31:23 (R111). -/
def reservedMask : Word := 0xFF888800#32

/-- The bits an opcode reading the fields `uses` may have set: OPC and those fields (R112). -/
def usedMask (uses : List Field) : Word := uses.foldr (fun g m => g.mask ||| m) 0x000000FF#32

/-- OPC, bits 7:0. -/
def opcOf (w : Word) : BitVec 8 := w.extractLsb' 0 8

/-- RD, bits 10:8. -/
def rdOf (w : Word) : Reg := (w.extractLsb' 8 3).toFin

/-- RA, bits 14:12. -/
def raOf (w : Word) : Reg := (w.extractLsb' 12 3).toFin

/-- RB, bits 18:16. -/
def rbOf (w : Word) : Reg := (w.extractLsb' 16 3).toFin

/-- F, bits 21:20. -/
def fOf (w : Word) : Fin 4 := (w.extractLsb' 20 2).toFin

/-- ALL, bit 22. -/
def allOf (w : Word) : Bool := w.getLsbD 22

/-- A command word of an opcode that reads the fields `uses`: legal only if every other bit is 0 (R112). -/
def needFields (w : Word) (uses : List Field) (i : Instr) : Except Reject Instr :=
  if w &&& reservedMask ≠ 0#32 then .error .reservedBit
  else if w &&& ~~~(usedMask uses) ≠ 0#32 then .error .unusedField
  else .ok i

/-- Decode a command word by the opcode map of R115: exactly one command, or the reason it is ILLEGAL (R112, R302). -/
def decode (w : Word) : Except Reject Instr :=
  match (opcOf w).toNat with
  | 0x00 => needFields w [] .nop
  | 0x01 => needFields w [.rd, .ra] (.dbl (rdOf w) (raOf w))
  | 0x02 => needFields w [.rd, .ra, .rb] (.xor (rdOf w) (raOf w) (rbOf w))
  | 0x03 => needFields w [.rd, .ra] (.muli (rdOf w) (raOf w))
  | 0x04 => needFields w [.rd, .ra, .rb] (.aesr (rdOf w) (raOf w) (rbOf w))
  | 0x05 => needFields w [.rd, .ra] (.aes4 (rdOf w) (raOf w))
  | 0x06 => if allOf w = true ∧ fOf w ≠ 0 then .error .ldrkSelector
      else needFields w [.ra, .f, .all] (.ldrk (raOf w) (fOf w) (allOf w))
  | 0x07 => if fOf w = 3 then .error .ldkeySelector else needFields w [.ra, .f] (.ldkey (raOf w) (fOf w))
  | 0x08 => needFields w [.rd] (.ofs (rdOf w))
  | 0x09 => needFields w [.rd, .ra] (.e (rdOf w) (raOf w))
  | 0x0A => needFields w [.ra] (.ldd (raOf w))
  | 0x0B => needFields w [.rd] (.std (rdOf w))
  | 0x0C => needFields w [.rd] (.ldb (rdOf w))
  | 0x0D => needFields w [.ra] (.stb (raOf w))
  | 0x0E => needFields w [] .zero
  | 0x10 => needFields w [] .hinit
  | 0x11 => needFields w [] .habs
  | 0x18 => needFields w [] .prf
  | 0x20 => needFields w [] .enc
  | 0x21 => needFields w [] .dec
  | _ => .error .unknownOpcode

/-- A command word from its opcode and fields, each in its place (R111); an unused field is given as 0. -/
def packWord (opc : Nat) (rd ra rb : Reg) (f : Fin 4) (all : Bool) : Word :=
  BitVec.ofNat 32 (opc + rd.val * 2 ^ 8 + ra.val * 2 ^ 12 + rb.val * 2 ^ 16 + f.val * 2 ^ 20 + all.toNat * 2 ^ 22)

/-- The command word of a command (R111, R115). -/
def encode : Instr → Word
  | .nop => packWord 0x00 0 0 0 0 false
  | .dbl rd ra => packWord 0x01 rd ra 0 0 false
  | .xor rd ra rb => packWord 0x02 rd ra rb 0 false
  | .muli rd ra => packWord 0x03 rd ra 0 0 false
  | .aesr rd ra rb => packWord 0x04 rd ra rb 0 false
  | .aes4 rd ra => packWord 0x05 rd ra 0 0 false
  | .ldrk ra f all => packWord 0x06 0 ra 0 f all
  | .ldkey ra f => packWord 0x07 0 ra 0 f false
  | .ofs rd => packWord 0x08 rd 0 0 0 false
  | .e rd ra => packWord 0x09 rd ra 0 0 false
  | .ldd ra => packWord 0x0A 0 ra 0 0 false
  | .std rd => packWord 0x0B rd 0 0 0 false
  | .ldb rd => packWord 0x0C rd 0 0 0 false
  | .stb ra => packWord 0x0D 0 ra 0 0 false
  | .zero => packWord 0x0E 0 0 0 0 false
  | .hinit => packWord 0x10 0 0 0 0 false
  | .habs => packWord 0x11 0 0 0 0 false
  | .prf => packWord 0x18 0 0 0 0 false
  | .enc => packWord 0x20 0 0 0 0 false
  | .dec => packWord 0x21 0 0 0 0 false

/-- The command the decoder reads from an opcode-table row's bits `w`, `nbits` of them given and the rest 0. A command
is one 32-bit word and no bytes of it lie in a memory (R31, R95), so the word itself is what the decoder is given. -/
def decodeTableWord (nbits w : Nat) : Option Instr :=
  match decode (BitVec.ofNat 32 (w % 2 ^ nbits)) with
  | .ok i => some i
  | .error _ => none

end Sys2Proof
end

