-- ==== Sys2Proof/Config.lean ====
section
/-! DEFINITION. What an implementation fixes (R7, R40, R41) and the free values (93_implementation_defined.md U10 to U12). -/

namespace Sys2Proof

/-- The platform's two OPEN parameters (R7, D3, D4). They stand in the state as plain data, so that a statement
about every state is a statement about every platform (log entry 1; DESIGN CHOICE, safe). -/
structure Params where
  /-- log2 of DMEM_SIZE, less 6: every value gives a legal size, a power of two from 64 to 2^20. -/
  dmemLog : Fin 15
  /-- BLOCK_BASE, the platform's bus address of the register window. -/
  blockBase : Nat
deriving DecidableEq, Repr

/-- DMEM_SIZE in bytes (R7, R8). -/
def Params.dmemSize (p : Params) : Nat := 2 ^ (p.dmemLog.val + 6)

/-- The reference platform of R7: DMEM_SIZE = 65536. BLOCK_BASE = 0 is a DESIGN CHOICE (log entry 1). -/
def Params.reference : Params := { dmemLog := 10, blockBase := 0 }

/-- ID reads 0x41455A43, ASCII "AEZC" (R3, R40). -/
def Config.idWord : Word := 0x41455A43#32

/-- VERSION reads 0x0001_0000 (R41). -/
def Config.versionWord : Word := 0x00010000#32

/-- FREE VALUE (R92, U10): what the n-th draw of a host read made while BUSY = 1 returns. Nothing constrains it
(log entry 4; safe). -/
opaque Config.busyWord : Nat → Word

/-- FREE VALUE (R331, U12): the n-th draw of a byte of an aborted command's DMEM write range (log entry 5; safe). -/
opaque Config.abortByte : Nat → Byte

/-- FREE VALUE (R330, U11): what DMEM byte `a` holds after hard reset number `epoch` until something writes it
(log entry 3; safe). -/
opaque Config.resetByte : Nat → Nat → Byte

end Sys2Proof
end

