-- ==== Sys2Proof/Machine/State.lean ====
section
/-! DEFINITION. The state of AEZC as plain data (10_state.md), its fault and refusal reasons, and the state after a
hard reset (R51). -/

namespace Sys2Proof.Machine

/-- The engine's pending command (R50): the issued command word and ARG0..ARG3 as sampled at issue. -/
structure Pending where
  cw : Word
  arg : Vector Word 4
deriving DecidableEq, Repr

/-- DMEM as the bytes written since the last hard reset, addresses strictly rising (`Memory.wf`). An unlisted address
holds NO WRITTEN BYTE; what it then reads as is the free value of R330 (log entry 3). -/
abbrev Memory := List Host.Cell

/-- The three subkey registers (R33). -/
inductive KeyName where
  | ki | kj | kl
deriving DecidableEq, Repr

/-- The error codes of R300 (0x00 is success and is no error). -/
inductive ErrCode where
  | illegal | nokey | nohash | tweak | len | range | overlap
deriving DecidableEq, Repr

/-- One host access to the bus (R30, R85, R86): its bus address, its width in bytes and, for a write, the data in the
low bits of a word. Widths and addresses that R85 and R86 do not admit can be written down; the host is then stuck. -/
inductive HostAccess where
  | read (addr bytes : Nat)
  | write (addr bytes : Nat) (data : Word)
deriving DecidableEq, Repr

/-- One move of the agents of R30 and of the platform (R330). -/
inductive Event where
  /-- the host's next access -/
  | access (a : HostAccess)
  /-- the engine's turn: it completes the pending command if there is one -/
  | engine
  /-- the platform's reset input -/
  | hardReset
deriving DecidableEq, Repr

/-- The whole machine. BUSY, KEYV, the STATUS and CTRL words and IRQ are views of these fields (Machine/Flags.lean). -/
structure State where
  /-- the platform's parameters (R7) -/
  params : Params
  /-- B0..B7 (R32) -/
  b : Vector Block 8
  /-- KI (R33) -/
  ki : Block
  /-- KJ (R33) -/
  kj : Block
  /-- KL (R33) -/
  kl : Block
  /-- KW[2:0] (R34) -/
  kw : BitVec 3
  /-- RK[0..3] (R35) -/
  rk : Vector Block 4
  /-- DELTA (R36) -/
  delta : Block
  /-- HASHV (R36) -/
  hashv : Bool
  /-- ARG0..ARG3 (R37) -/
  arg : Vector Word 4
  /-- CMD, the last issued command word (R38) -/
  cmd : Word
  /-- ERRCMD (R39) -/
  errcmd : Word
  /-- CTRL.IRQ_EN (R42) -/
  irqEn : Bool
  /-- STATUS.DONE (R43) -/
  done : Bool
  /-- STATUS.ERR (R43) -/
  err : Bool
  /-- STATUS.OVR (R43) -/
  ovr : Bool
  /-- STATUS.ERRCODE (R43, R300) -/
  errcode : BitVec 8
  /-- the pending command (R50) -/
  pending : Option Pending
  /-- DMEM (R80) -/
  dmem : Memory
  /-- the model's own: the number of hard resets so far, which indexes the free contents of DMEM (R330) -/
  epoch : Nat
  /-- the model's own: the number of draws taken so far (R92, R331) -/
  draws : Nat
  /-- the model's own: the moves still to come, first one first (log entry 6) -/
  script : List Event
  /-- the model's own: the word the host's last read returned (log entry 6) -/
  rdata : Word
deriving DecidableEq, Repr

/-- Why a step can stop. No error of the engine is one of these: each is a completion with a code (R317). -/
inductive Fault where
  /-- The host's next access is not admitted (R85, R86, R317) and no command is pending: no agent has a step. Raised
  by `agentStep`; safe (a stuck state). -/
  | hostStuck
  /-- The host's next access lies outside the 2 MiB window (R88), so it is none of AEZC's, and no command is pending.
  Raised by `agentStep`; safe (log entry 9). -/
  | outsideWindow
deriving DecidableEq, Repr

/-- Why an instruction has no meaning here. -/
inductive Refusal where
  /-- An instruction without a meaning yet, by its mnemonic. Raised by no arm of `exec`: every command is modelled;
  safe. -/
  | notModelled (mnemonic : String)
deriving DecidableEq, Repr

/-- What a step answers. -/
abbrev Outcome := Host.Outcome State Fault Refusal

/-- The state right after a hard reset (R51, R330), on the reference platform (R7), with no move to come. -/
def State.reset : State where
  params := Params.reference
  b := Vector.replicate 8 0#128
  ki := 0#128
  kj := 0#128
  kl := 0#128
  kw := 0#3
  rk := Vector.replicate 4 0#128
  delta := 0#128
  hashv := false
  arg := Vector.replicate 4 0#32
  cmd := 0#32
  errcmd := 0#32
  irqEn := false
  done := false
  err := false
  ovr := false
  errcode := 0#8
  pending := none
  dmem := []
  epoch := 0
  draws := 0
  script := []
  rdata := 0#32

end Sys2Proof.Machine
end

