-- ==== Sys2Proof/Machine/Flags.lean ====
section
/-! DEFINITION. The views and the flag computations of STATUS, CTRL and IRQ (10_state.md R34, R42 to R44; 60 R300, R310). -/

namespace Sys2Proof.Machine

/-- The code of an error (R300). -/
def ErrCode.code : ErrCode → BitVec 8
  | .illegal => 0x01#8
  | .nokey => 0x02#8
  | .nohash => 0x03#8
  | .tweak => 0x04#8
  | .len => 0x05#8
  | .range => 0x06#8
  | .overlap => 0x07#8

/-- STATUS.BUSY, 1 exactly while a command is pending (R43, R50). -/
def State.busy (s : State) : Bool := s.pending.isSome

/-- STATUS.KEYV = (KW = 0b111) (R34). -/
def State.keyv (s : State) : Bool := s.kw == 0b111#3

/-- A flag as one bit of a word. -/
def flagBit (f : Bool) : BitVec 1 := BitVec.ofBool f

/-- STATUS as the host reads it (R43): KW in 18:16, ERRCODE in 15:8, HASHV 5, KEYV 4, OVR 3, ERR 2, DONE 1, BUSY 0;
bits 31:19 and 7:6 read 0. -/
def State.statusWord (s : State) : Word :=
  0#13 ++ s.kw ++ s.errcode ++ 0#2 ++ flagBit s.hashv ++ flagBit s.keyv ++ flagBit s.ovr ++ flagBit s.err
    ++ flagBit s.done ++ flagBit s.busy

/-- CTRL as the host reads it (R42): IRQ_EN in bit 0, every other bit 0. -/
def State.ctrlWord (s : State) : Word := 0#31 ++ flagBit s.irqEn

/-- The IRQ output, a level (R310). -/
def State.irq (s : State) : Bool := s.irqEn && s.done

/-- A host write of `v` to STATUS (R43): DONE, ERR and OVR are cleared where written as 1, ERRCODE with ERR; every other
bit is ignored. -/
def State.clearStatus (s : State) (v : Word) : State :=
  { s with
    done := s.done && !v.getLsbD 1
    err := s.err && !v.getLsbD 2
    ovr := s.ovr && !v.getLsbD 3
    errcode := if v.getLsbD 2 then 0#8 else s.errcode }

end Sys2Proof.Machine
end

