-- ==== Sys2Proof/Machine/Operands.lean ====
section
/-! DEFINITION. The numeric operands of the commands, from the ARG registers as sampled at issue (30_encoding.md R114). -/

namespace Sys2Proof.Machine

/-- The command being executed: the pending one (R50). A meaning asked for with none pending reads CMD and ARG as they
stand; no step does that (log entry 11). -/
def State.issued (s : State) : Pending := s.pending.getD { cw := s.cmd, arg := s.arg }

/-- `zext(ARGn)`, an exact integer (R11, R114). -/
def State.zextArg (s : State) (n : Fin 4) : Nat := s.issued.arg[n].toNat

/-- `sext_32(ARGn)` (R11, R114). -/
def State.sextArg (s : State) (n : Fin 4) : Int := s.issued.arg[n].toInt

/-- MULI: n = zext(ARG0). -/
def State.muliFactor (s : State) : Nat := s.zextArg 0

/-- OFS, E: the block index j = zext(ARG0). -/
def State.tweakJ (s : State) : Nat := s.zextArg 0

/-- OFS, E: the tweak index i = sext_32(ARG1). -/
def State.tweakI (s : State) : Int := s.sextArg 1

/-- LDB, STB: the DMEM address zext(ARG0). -/
def State.blockAddr (s : State) : Nat := s.zextArg 0

/-- HINIT: τ in bits, ARG0 unchanged. -/
def State.hinitTau (s : State) : Word := s.issued.arg[(0 : Fin 4)]

/-- HABS: the source address zext(ARG0). -/
def State.habsSrc (s : State) : Nat := s.zextArg 0

/-- HABS: the length zext(ARG1). -/
def State.habsLen (s : State) : Nat := s.zextArg 1

/-- HABS: the tweak index zext(ARG2). -/
def State.habsTweak (s : State) : Nat := s.zextArg 2

/-- PRF: the destination address zext(ARG0). -/
def State.prfDst (s : State) : Nat := s.zextArg 0

/-- PRF: the length in bytes zext(ARG1). -/
def State.prfLen (s : State) : Nat := s.zextArg 1

/-- ENC, DEC: the source address zext(ARG0). -/
def State.coreSrc (s : State) : Nat := s.zextArg 0

/-- ENC, DEC: the destination address zext(ARG1). -/
def State.coreDst (s : State) : Nat := s.zextArg 1

/-- ENC, DEC: the length zext(ARG2). -/
def State.coreLen (s : State) : Nat := s.zextArg 2

end Sys2Proof.Machine
end

