-- ==== Sys2Proof/Machine/Block.lean ====
section
/-! DEFINITION. Bytes, words and byte strings of a block (00_scope.md R9 to R12; 10_state.md R46; 40 R143). -/

namespace Sys2Proof.Machine

/-- `b[k]`, byte k of a block for k < 16: bits 127-8k .. 120-8k of int(b) (R9, R10). -/
def byteOf (x : Block) (k : Nat) : Byte := x.extractLsb' (8 * (15 - k)) 8

/-- The block whose byte k is `f k` (R9). -/
def blockOfFn (f : Nat → Byte) : Block :=
  f 0 ++ f 1 ++ f 2 ++ f 3 ++ f 4 ++ f 5 ++ f 6 ++ f 7 ++ f 8 ++ f 9 ++ f 10 ++ f 11 ++ f 12 ++ f 13 ++ f 14 ++ f 15

/-- A string of 16 bytes as a block (R9); bytes a shorter string does not have are 0. -/
def blockOfBytes (s : List Byte) : Block := blockOfFn fun k => s.getD k 0#8

/-- A block as its string of 16 bytes (R9). -/
def bytesOfBlock (x : Block) : List Byte := (List.range 16).map (byteOf x)

/-- `[x]_128 = blk(x)`, the 128-bit big-endian encoding (R11). -/
def blk (n : Nat) : Block := BitVec.ofNat 128 n

/-- `to_block(x) = 0^12 ‖ BE32(x)` (R11): x in bytes 12..15, big-endian. -/
def toBlock (x : Word) : Block := x.setWidth 128

/-- Bytewise XOR of two strings of equal length (R12). -/
def xorBytes (s t : List Byte) : List Byte := List.zipWith (· ^^^ ·) s t

/-- XOR of a list of blocks. -/
def xorAll (xs : List Block) : Block := xs.foldr (· ^^^ ·) 0#128

/-- `trunc_n(b) = b[0..n)` (R12). -/
def trunc (n : Nat) (x : Block) : List Byte := (bytesOfBlock x).take n

/-- `pad10(s) = s ‖ 0x80 ‖ 0^(15-|s|)` for |s| ≤ 15 (R143). -/
def pad10 (s : List Byte) : Block := blockOfBytes (s ++ 0x80#8 :: List.replicate (15 - s.length) 0#8)

/-- `s[a .. a+16)` as a block (R9). -/
def blockAt (s : List Byte) (a : Nat) : Block := blockOfBytes ((s.drop a).take 16)

/-- The bytes of a 32-bit word that lie little-endian from the lowest address: byte k is bits 8k+7..8k (R46, R82). -/
def wordByte (w : Word) (k : Nat) : Byte := w.extractLsb' (8 * k) 8

/-- Four bytes as a word, the first in bits 7:0 (R46, R82). -/
def wordOfBytes (b0 b1 b2 b3 : Byte) : Word := b3 ++ b2 ++ b1 ++ b0

/-- Word w of a 128-bit register: bytes 4w..4w+3, little-endian (R46). -/
def regWord (x : Block) (w : Fin 4) : Word :=
  wordOfBytes (byteOf x (4 * w.val)) (byteOf x (4 * w.val + 1)) (byteOf x (4 * w.val + 2)) (byteOf x (4 * w.val + 3))

/-- A host write of word w of a 128-bit register: those four bytes and no others (R46). -/
def setRegWord (x : Block) (w : Fin 4) (v : Word) : Block :=
  blockOfFn fun k => if k / 4 = w.val then wordByte v (k % 4) else byteOf x k

end Sys2Proof.Machine
end

