-- ==== Sys2Proof/Machine/Aes.lean ====
section
/-! DEFINITION. The AES round engine, AES4 and AES10 (41_aes.md R170 to R178). The state is the block itself, row r and
column c of it byte r + 4c (R170). -/

namespace Sys2Proof.Machine

/-- Row `hi` of the S-box table of R171, columns x0..xF as the bytes of a block. -/
def sboxRow (hi : Nat) : Block :=
  match hi with
  | 0x0 => 0x637C777BF26B6FC53001672BFED7AB76#128
  | 0x1 => 0xCA82C97DFA5947F0ADD4A2AF9CA472C0#128
  | 0x2 => 0xB7FD9326363FF7CC34A5E5F171D83115#128
  | 0x3 => 0x04C723C31896059A071280E2EB27B275#128
  | 0x4 => 0x09832C1A1B6E5AA0523BD6B329E32F84#128
  | 0x5 => 0x53D100ED20FCB15B6ACBBE394A4C58CF#128
  | 0x6 => 0xD0EFAAFB434D338545F9027F503C9FA8#128
  | 0x7 => 0x51A3408F929D38F5BCB6DA2110FFF3D2#128
  | 0x8 => 0xCD0C13EC5F974417C4A77E3D645D1973#128
  | 0x9 => 0x60814FDC222A908846EEB814DE5E0BDB#128
  | 0xA => 0xE0323A0A4906245CC2D3AC629195E479#128
  | 0xB => 0xE7C8376D8DD54EA96C56F4EA657AAE08#128
  | 0xC => 0xBA78252E1CA6B4C6E8DD741F4BBD8B8A#128
  | 0xD => 0x703EB5664803F60E613557B986C11D9E#128
  | 0xE => 0xE1F8981169D98E949B1E87E9CE5528DF#128
  | _ => 0x8CA1890DBFE6426841992D0FB054BB16#128

/-- `SBOX[x]` by the table of R171: the row is the high nibble, the column the low nibble. -/
def sbox (x : Byte) : Byte := byteOf (sboxRow (x.toNat / 16)) (x.toNat % 16)

/-- SubBytes (R171). -/
def subBytes (s : Block) : Block := blockOfFn fun k => sbox (byteOf s k)

/-- ShiftRows (R172): `b'[r + 4c] = b[r + 4·((c + r) mod 4)]`. -/
def shiftRows (s : Block) : Block := blockOfFn fun k => byteOf s (k % 4 + 4 * ((k / 4 + k % 4) % 4))

/-- `2·a` in GF(2^8) (R173). -/
def xtime (a : Byte) : Byte := if a.getLsbD 7 then (a <<< 1) ^^^ 0x1B#8 else a <<< 1

/-- `3·a` in GF(2^8) (R173). -/
def times3 (a : Byte) : Byte := xtime a ^^^ a

/-- Row r of MixColumns on the column (a0, a1, a2, a3) (R173). -/
def mixRow (r : Nat) (a0 a1 a2 a3 : Byte) : Byte :=
  match r with
  | 0 => xtime a0 ^^^ times3 a1 ^^^ a2 ^^^ a3
  | 1 => a0 ^^^ xtime a1 ^^^ times3 a2 ^^^ a3
  | 2 => a0 ^^^ a1 ^^^ xtime a2 ^^^ times3 a3
  | _ => times3 a0 ^^^ a1 ^^^ a2 ^^^ xtime a3

/-- MixColumns (R173). -/
def mixColumns (s : Block) : Block :=
  blockOfFn fun k =>
    mixRow (k % 4) (byteOf s (4 * (k / 4))) (byteOf s (4 * (k / 4) + 1)) (byteOf s (4 * (k / 4) + 2))
      (byteOf s (4 * (k / 4) + 3))

/-- AddRoundKey (R174). -/
def addRoundKey (s k : Block) : Block := s ^^^ k

/-- `Round(s, k)` (R175), MixColumns included in every round. -/
def aesRound (s k : Block) : Block := addRoundKey (mixColumns (shiftRows (subBytes s))) k

/-- `AES4(k0, k1, k2, k3; X)` (R177): four rounds, no pre-whitening. -/
def aes4 (k0 k1 k2 k3 x : Block) : Block := aesRound (aesRound (aesRound (aesRound x k0) k1) k2) k3

/-- The ten round keys of AES10 (R178): I, L, J three times, then I. -/
def aes10Keys (ki kj kl : Block) : List Block := [ki, kl, kj, ki, kl, kj, ki, kl, kj, ki]

/-- `AES10(X)` (R178): a pre-whitening XOR with the zero key, then ten rounds. -/
def aes10 (ki kj kl x : Block) : Block := (aes10Keys ki kj kl).foldl aesRound (x ^^^ 0#128)

end Sys2Proof.Machine
end

