-- ==== Sys2Proof/Machine/Gf.lean ====
section
/-! DEFINITION. The GF(2^128) doubling unit and the multiples built on it (40_doubling_block.md R140 to R142). -/

namespace Sys2Proof.Machine

/-- `dbl(X)` (R140): shift left by one; if the top bit was 1, XOR with 0x87. -/
def dbl (x : Block) : Block :=
  if x.getLsbD 127 then (x <<< 1) ^^^ 0x87#128 else x <<< 1

/-- The loop of R141, run until n is 0; `fuel` bounds its turns. -/
def mulLoop : Nat → Nat → Block → Block → Block
  | 0, _, _, r => r
  | fuel + 1, n, t, r =>
    if n = 0 then r else mulLoop fuel (n / 2) (dbl t) (if n % 2 = 1 then r ^^^ t else r)

/-- `mul(n, X)`, X times the field element whose coefficients are the binary digits of n (R141). The loop halves n each
turn, so n turns are enough. -/
def gfMul (n : Nat) (x : Block) : Block := mulLoop n n x 0#128

/-- `pow2(k, X)`, dbl applied k times (R142). -/
def pow2 : Nat → Block → Block
  | 0, x => x
  | k + 1, x => dbl (pow2 k x)

end Sys2Proof.Machine
end

