-- ==== Sys2Proof/Machine/Tweak.lean ====
section
/-! DEFINITION. Tweak offsets, the AES4 schedule of a tweak index and the tweakable block cipher E^{i,j}
(42_tweak_cipher.md R200 to R206). -/

namespace Sys2Proof.Machine

/-- The subkeys I, J and L, held in KI, KJ and KL (R16, R33). -/
structure Subkeys where
  i : Block
  j : Block
  l : Block
deriving DecidableEq, Repr

/-- `Sched(i)` for i ≥ 0 (R200): (J, L, I, J) for the core tweaks 0, 1, 2 and (I, J, L, I) from 3 on. -/
def sched (k : Subkeys) (i : Int) : Block × Block × Block × Block :=
  if i < 3 then (k.j, k.l, k.i, k.j) else (k.i, k.j, k.l, k.i)

/-- The tweaks R201 gives an offset (R202): i ≥ -1, and j ≥ 1 when i is 1 or 2. -/
def legalTweak (i : Int) (j : Nat) : Bool :=
  decide (-1 ≤ i) && !(decide (i = 1 ∨ i = 2) && decide (j = 0))

/-- `Ofs(i, j)` for a legal tweak (R201). Off the legal tweaks the value means nothing and no command uses it
(log entry 16). -/
def ofs (k : Subkeys) (i : Int) (j : Nat) : Block :=
  if i = -1 ∨ i = 0 then gfMul j k.j
  else if i = 1 ∨ i = 2 then gfMul (j % 8) k.j ^^^ pow2 ((j - 1) / 8) k.l
  else if j = 0 then gfMul (8 * (i - 2)).toNat k.j
  else gfMul (8 * (i - 2)).toNat k.j ^^^ gfMul (j % 8) k.j ^^^ pow2 ((j - 1) / 8) k.l

/-- AES4 under the four keys of a schedule (R177, R179). -/
def aes4Sched (ks : Block × Block × Block × Block) (x : Block) : Block := aes4 ks.1 ks.2.1 ks.2.2.1 ks.2.2.2 x

/-- `E(i, j, X)` (R206): AES10 for i = -1, AES4 under Sched(i) for i ≥ 0, on X ⊕ Ofs(i, j). -/
def cipherE (k : Subkeys) (i : Int) (j : Nat) (x : Block) : Block :=
  if i = -1 then aes10 k.i k.j k.l (x ^^^ ofs k (-1) j) else aes4Sched (sched k i) (x ^^^ ofs k i j)

end Sys2Proof.Machine
end

