-- ==== Sys2Proof/Machine/Ops.lean ====
section
/-! DEFINITION. The shared operations: registers, DMEM, the ordered checks, completion and error completion, issue, and
the two resets. -/

namespace Sys2Proof.Machine

/-! ### Registers -/

/-- `B[n]` (R13, R32). -/
def State.getB (s : State) (n : Reg) : Block := s.b[n]

/-- `B[n] <- v` (R13, R32). -/
def State.setB (s : State) (n : Reg) (v : Block) : State := { s with b := s.b.set n v }

/-- The KW bit of a key register (R34). -/
def KeyName.bit : KeyName → BitVec 3
  | .ki => 0b001#3
  | .kj => 0b010#3
  | .kl => 0b100#3

/-- A key register's contents, which only the engine reads (R33). -/
def State.getKey (s : State) : KeyName → Block
  | .ki => s.ki
  | .kj => s.kj
  | .kl => s.kl

/-- A write of a key register, by LDKEY or the host, which sets its KW bit (R34). -/
def State.setKey (s : State) (k : KeyName) (v : Block) : State :=
  match k with
  | .ki => { s with ki := v, kw := s.kw ||| KeyName.ki.bit }
  | .kj => { s with kj := v, kw := s.kw ||| KeyName.kj.bit }
  | .kl => { s with kl := v, kw := s.kw ||| KeyName.kl.bit }

/-- The subkeys (I, J, L) (R16, R33). -/
def State.subkeys (s : State) : Subkeys := { i := s.ki, j := s.kj, l := s.kl }

/-- `RK[k]` (R13, R35). -/
def State.getRk (s : State) (k : Fin 4) : Block := s.rk[k]

/-- `RK[k] <- v` (R13, R35). -/
def State.setRk (s : State) (k : Fin 4) (v : Block) : State := { s with rk := s.rk.set k v }

/-- All four RK registers at once (R182). -/
def State.setRkAll (s : State) (v : Block) : State := { s with rk := Vector.replicate 4 v }

/-- `DELTA <- v`, the flag left as it is (R236). -/
def State.setDelta (s : State) (v : Block) : State := { s with delta := v }

/-- `DELTA <- v; HASHV <- 1` (R36): HINIT, LDD and a host write. -/
def State.loadDelta (s : State) (v : Block) : State := { s with delta := v, hashv := true }

/-- `ARGn <- v` by the host (R37). -/
def State.setArg (s : State) (n : Fin 4) (v : Word) : State := { s with arg := s.arg.set n v }

/-- ZERO's writes (R160). -/
def State.zeroize (s : State) : State :=
  { s with
    b := Vector.replicate 8 0#128
    ki := 0#128
    kj := 0#128
    kl := 0#128
    kw := 0#3
    rk := Vector.replicate 4 0#128
    delta := 0#128
    hashv := false }

/-! ### DMEM -/

/-- The byte written at `a`, if one has been (log entry 3). -/
def Memory.lookup : Memory → Nat → Option Byte
  | [], _ => none
  | (k, v) :: rest, a => if k = a then some v else Memory.lookup rest a

/-- Write one byte, the list kept in order and without repeats. -/
def Memory.insert : Memory → Nat → Byte → Memory
  | [], a, v => [(a, v)]
  | (k, u) :: rest, a, v =>
    if a < k then (a, v) :: (k, u) :: rest
    else if a = k then (a, v) :: rest
    else (k, u) :: Memory.insert rest a v

/-- The canonical form: addresses strictly rising. An unlisted address holds no written byte, so no entry can equal what
an unlisted address holds (log entry 3). -/
def Memory.wf : Memory → Bool
  | [] => true
  | [_] => true
  | (k, _) :: (l, v) :: rest => decide (k < l) && Memory.wf ((l, v) :: rest)

/-- Every written address lies below `n`. -/
def Memory.below (m : Memory) (n : Nat) : Bool := m.all fun c => decide (c.1 < n)

/-- Write a byte string from address `a` upward. -/
def Memory.insertBytes : Memory → Nat → List Byte → Memory
  | m, _, [] => m
  | m, a, v :: vs => Memory.insertBytes (m.insert a v) (a + 1) vs

/-- `DMEM[a]`: the byte written there, or else the free value that hard reset `epoch` left (R330). -/
def State.readByte (s : State) (a : Nat) : Byte := (s.dmem.lookup a).getD (Config.resetByte s.epoch a)

/-- `MemRead(a, n)` (R13, R81). -/
def State.memRead (s : State) (a n : Nat) : List Byte := (List.range n).map fun k => s.readByte (a + k)

/-- `MemWrite(a, |bytes|, bytes)` (R13, R81). -/
def State.memWrite (s : State) (a : Nat) (bytes : List Byte) : State := { s with dmem := s.dmem.insertBytes a bytes }

/-! ### The ordered checks (R303) -/

/-- A byte range [a, a + n) leaves DMEM, in exact integers (R303). -/
def State.outOfRange (s : State) (a n : Nat) : Bool := decide (a + n > s.params.dmemSize)

/-- Source and destination differ and their ranges meet (R303). -/
def overlaps (src dst m : Nat) : Bool := decide (src ≠ dst ∧ src < dst + m ∧ dst < src + m)

/-- The first condition that holds, in the order listed (R303). -/
def firstError : List (Bool × ErrCode) → Option ErrCode
  | [] => none
  | (bad, e) :: rest => if bad then some e else firstError rest

/-! ### Completion (R312) -/

/-- A successful completion, the command's writes already made (R312). -/
def State.complete (s : State) : State := { s with errcode := 0x00#8, done := true, pending := none }

/-- `raise Error(e)`: completion with an error. It records ERRCODE and ERRCMD and has no other effect (R304, R305, R312).
This is AEZC's place for taking an exception: there is no vector and nothing to return from (R313, R314); the host reads
STATUS and clears it by `State.clearStatus` or the next issue. -/
def State.raiseError (s : State) (e : ErrCode) : State :=
  { s with errcode := e.code, err := true, errcmd := s.issued.cw, done := true, pending := none }

/-- Complete the command in state `s`: with the first error its checks find, or else with the writes that made `t` of
`s` (R303, R312). -/
def finish (s : State) (checks : List (Bool × ErrCode)) (t : State) : Outcome :=
  match firstError checks with
  | some e => .next (s.raiseError e)
  | none => .next t.complete

/-! ### Issue (R311) -/

/-- Issue command word `v` (R311): legal or not, it becomes the pending command with ARG0..ARG3 as they stand. -/
def State.issue (s : State) (v : Word) : State :=
  { s with
    cmd := v
    pending := some { cw := v, arg := s.arg }
    done := false
    err := false
    errcode := 0x00#8 }

/-! ### Reset (R330, R331) -/

/-- The DMEM write range (address, length) of a command with these sampled operands (R303, R331): STB, PRF, ENC and DEC
have one, no other command does. -/
def commandWriteRange (i : Instr) (arg : Vector Word 4) : Nat × Nat :=
  match i with
  | .stb _ => (arg[0].toNat, 16)
  | .prf => (arg[0].toNat, arg[1].toNat)
  | .enc => (arg[1].toNat, arg[2].toNat)
  | .dec => (arg[1].toNat, arg[2].toNat)
  | .nop | .dbl _ _ | .xor _ _ _ | .muli _ _ | .aesr _ _ _ | .aes4 _ _ | .ldrk _ _ _ | .ldkey _ _ | .ofs _ | .e _ _
  | .ldd _ | .std _ | .ldb _ | .zero | .hinit | .habs => (0, 0)

/-- The DMEM write range of a pending command; an illegal word is no command and has none (log entry 5). -/
def Pending.writeRange (p : Pending) : Nat × Nat :=
  match decode p.cw with
  | .ok i => commandWriteRange i p.arg
  | .error _ => (0, 0)

/-- How many bytes of [a, a + n) lie inside [0, size) (R331). -/
def insideCount (a n size : Nat) : Nat := min (a + n) size - a

/-- `n` fresh draws, one per byte, from draw number `d` on (R331, U12). -/
def drawBytes (d n : Nat) : List Byte := (List.range n).map fun k => Config.abortByte (d + k)

/-- The bytes an aborted command might have written become draws (R331). -/
def State.abortPending (s : State) : State :=
  match s.pending with
  | none => s
  | some p =>
    let n := insideCount p.writeRange.1 p.writeRange.2 s.params.dmemSize
    { s.memWrite p.writeRange.1 (drawBytes s.draws n) with draws := s.draws + n }

/-- Every register and flag at its reset value (R51); DMEM, the platform and the model's own fields as they were. -/
def State.resetRegisters (s : State) : State :=
  { State.reset with
    params := s.params
    dmem := s.dmem
    epoch := s.epoch
    draws := s.draws
    script := s.script
    rdata := s.rdata }

/-- Soft reset (R331): a pending command is aborted and never completes; CTRL becomes 0. -/
def State.softReset (s : State) : State := s.abortPending.resetRegisters

/-- Hard reset (R330): every register at its reset value, no pending command, every DMEM byte a fresh draw. -/
def State.hardReset (s : State) : State := { s.resetRegisters with dmem := [], epoch := s.epoch + 1 }

end Sys2Proof.Machine
end

