-- ==== Sys2Proof/Machine/CmdAes.lean ====
section
/-! DEFINITION. AESR, AES4 and the loads of the schedule and key registers (41_aes.md R180 to R183). -/

namespace Sys2Proof.Machine

/-- AESR (R180): `B[RD] <- Round(B[RA], B[RB])`. -/
def execAesr (rd ra rb : Reg) (s : State) : Outcome := finish s [] (s.setB rd (aesRound (s.getB ra) (s.getB rb)))

/-- AES4 (R181): `B[RD] <- AES4(RK[0], RK[1], RK[2], RK[3]; B[RA])`; no key is needed. -/
def execAes4 (rd ra : Reg) (s : State) : Outcome :=
  finish s [] (s.setB rd (aes4 (s.getRk 0) (s.getRk 1) (s.getRk 2) (s.getRk 3) (s.getB ra)))

/-- LDRK (R182): ALL = 1 with F ≠ 0 is ILLEGAL; else all four RK registers or RK[F] take B[RA]. -/
def execLdrk (ra : Reg) (f : Fin 4) (all : Bool) (s : State) : Outcome :=
  finish s [(all && f != 0, .illegal)] (if all then s.setRkAll (s.getB ra) else s.setRk f (s.getB ra))

/-- The key register LDKEY's F selects; F = 3 selects none (R112, R183). -/
def keySelect (f : Fin 4) : Option KeyName :=
  if f = 0 then some .ki else if f = 1 then some .kj else if f = 2 then some .kl else none

/-- LDKEY (R183): the selected key takes B[RA] and its KW bit is set; F = 3 is ILLEGAL. -/
def execLdkey (ra : Reg) (f : Fin 4) (s : State) : Outcome :=
  match keySelect f with
  | some k => finish s [] (s.setKey k (s.getB ra))
  | none => finish s [(true, .illegal)] s

end Sys2Proof.Machine
end

