-- ==== Sys2Proof/Machine/CmdBlock.lean ====
section
/-! DEFINITION. NOP, DBL, XOR, MULI and the commands that move blocks (40_doubling_block.md R150 to R160). Each is one
completion of R312: the checks its rule lists, then its writes. -/

namespace Sys2Proof.Machine

/-- NOP (R150): no effect beyond completion. -/
def execNop (s : State) : Outcome := finish s [] s

/-- DBL (R152): `B[RD] <- dbl(B[RA])`. -/
def execDbl (rd ra : Reg) (s : State) : Outcome := finish s [] (s.setB rd (dbl (s.getB ra)))

/-- XOR (R151): `B[RD] <- B[RA] ⊕ B[RB]`. -/
def execXor (rd ra rb : Reg) (s : State) : Outcome := finish s [] (s.setB rd (s.getB ra ^^^ s.getB rb))

/-- MULI (R153): `B[RD] <- mul(n, B[RA])`. -/
def execMuli (rd ra : Reg) (s : State) : Outcome := finish s [] (s.setB rd (gfMul s.muliFactor (s.getB ra)))

/-- LDD (R156): `DELTA <- B[RA]; HASHV <- 1`. -/
def execLdd (ra : Reg) (s : State) : Outcome := finish s [] (s.loadDelta (s.getB ra))

/-- STD (R157): `B[RD] <- DELTA`, whatever HASHV is. -/
def execStd (rd : Reg) (s : State) : Outcome := finish s [] (s.setB rd s.delta)

/-- LDB (R154): `B[RD] <- MemRead(a, 16)`. -/
def execLdb (rd : Reg) (s : State) : Outcome :=
  finish s [(s.outOfRange s.blockAddr 16, .range)] (s.setB rd (blockOfBytes (s.memRead s.blockAddr 16)))

/-- STB (R155): `MemWrite(a, 16, B[RA])`. -/
def execStb (ra : Reg) (s : State) : Outcome :=
  finish s [(s.outOfRange s.blockAddr 16, .range)] (s.memWrite s.blockAddr (bytesOfBlock (s.getB ra)))

/-- ZERO (R160): every block, key and schedule register, DELTA, KW and HASHV become 0. -/
def execZero (s : State) : Outcome := finish s [] s.zeroize

end Sys2Proof.Machine
end

