-- ==== Sys2Proof/Machine/WideBlock.lean ====
section
/-! DEFINITION. AEZ-core, the wide-block cipher (45_core.md R270 to R275). The names are R275's. -/

namespace Sys2Proof.Machine

/-- The fragment's length f = (m - 32) mod 32 (R270). -/
def fragLen (m : Nat) : Nat := (m - 32) % 32

/-- The number of pairs p = (m - 32 - f) / 32 (R270). -/
def pairCount (m : Nat) : Nat := (m - 32 - fragLen m) / 32

/-- An input cut into its pieces (R270). -/
structure Pieces where
  /-- the pairs (X_j, X'_j), j = 1..p -/
  pairs : List (Block × Block)
  /-- the fragment F -/
  frag : List Byte
  /-- X* -/
  xs : Block
  /-- X** -/
  xss : Block
deriving DecidableEq, Repr

/-- `split(P)` (R270): the pairs, the fragment after them, and the final 32 bytes X* ‖ X**. -/
def splitInput (s : List Byte) : Pieces where
  pairs := (List.range (pairCount s.length)).map fun t => (blockAt s (32 * t), blockAt s (32 * t + 16))
  frag := (s.drop (32 * pairCount s.length)).take (fragLen s.length)
  xs := blockAt s (32 * pairCount s.length + fragLen s.length)
  xss := blockAt s (32 * pairCount s.length + fragLen s.length + 16)

/-- Pass 1 on the pairs from index j on: (W_j, V_j) of each (R273). -/
def pass1 (k : Subkeys) : Nat → List (Block × Block) → List (Block × Block)
  | _, [] => []
  | j, (x, x') :: rest =>
    let w := x ^^^ cipherE k 1 j x'
    (w, x' ^^^ cipherE k 0 0 w) :: pass1 k (j + 1) rest

/-- What a fragment adds to an accumulator: `E(0, 4, F[0..16)) ⊕ E(0, 5, pad10(F[16..f)))` for f ≥ 16, `E(0, 4, pad10(F))`
for 0 < f < 16, nothing for f = 0 (R273, R280). -/
def fragAbsorb (k : Subkeys) (f : List Byte) : Block :=
  if f.length ≥ 16 then cipherE k 0 4 (blockAt f 0) ^^^ cipherE k 0 5 (pad10 (f.drop 16))
  else if f.length > 0 then cipherE k 0 4 (pad10 f)
  else 0#128

/-- Pass 2 on the pairs from index j on: M''_j of each (R275, R281). -/
def pass2M (k : Subkeys) (s : Block) : Nat → List (Block × Block) → List Block
  | _, [] => []
  | j, (w, _) :: rest => (w ^^^ cipherE k 2 j s) :: pass2M k s (j + 1) rest

/-- Pass 2 on the pairs from index j on: the output pairs (C_j, C''_j) (R275, R278). -/
def pass2 (k : Subkeys) (s : Block) : Nat → List (Block × Block) → List (Block × Block)
  | _, [] => []
  | j, (w, v) :: rest =>
    let t := cipherE k 2 j s
    let c'' := (w ^^^ t) ^^^ cipherE k 0 0 (v ^^^ t)
    ((v ^^^ t) ^^^ cipherE k 1 j c'', c'') :: pass2 k s (j + 1) rest

/-- The masked fragment (R280): E(-1, 4, S) over the first 16 bytes, E(-1, 5, S) over the rest, each truncated. -/
def fragMask (k : Subkeys) (s : Block) (f : List Byte) : List Byte :=
  if f.length ≥ 16 then
    xorBytes (f.take 16) (trunc 16 (cipherE k (-1) 4 s))
      ++ xorBytes (f.drop 16) (trunc (f.length - 16) (cipherE k (-1) 5 s))
  else xorBytes f (trunc f.length (cipherE k (-1) 4 s))

/-- Everything R275 computes on the way to its output. -/
structure CoreRun where
  /-- (W_j, V_j) -/
  wv : List (Block × Block)
  /-- XA -/
  xa : Block
  /-- Sx -/
  sx : Block
  /-- Sy -/
  sy : Block
  /-- S -/
  s : Block
  /-- YA -/
  ya : Block
  /-- (C_j, C''_j) -/
  outPairs : List (Block × Block)
  /-- OutFrag -/
  outFrag : List Byte
  /-- C* -/
  cs : Block
  /-- C** -/
  css : Block
deriving DecidableEq, Repr

/-- R275 on the pieces of an input, for direction d = 0 (encipher) or d = 1 (decipher). -/
def coreRun (k : Subkeys) (d : Nat) (delta : Block) (p : Pieces) : CoreRun :=
  let wv := pass1 k 1 p.pairs
  let xa := xorAll (wv.map Prod.snd) ^^^ fragAbsorb k p.frag
  let sx := xa ^^^ p.xs ^^^ delta ^^^ cipherE k 0 (1 + d) p.xss
  let sy := p.xss ^^^ cipherE k (-1) (1 + d) sx
  let s := sx ^^^ sy
  let outFrag := fragMask k s p.frag
  let ya := xorAll (pass2M k s 1 wv) ^^^ fragAbsorb k outFrag
  let cs := sx ^^^ cipherE k (-1) (2 - d) sy
  { wv := wv, xa := xa, sx := sx, sy := sy, s := s, ya := ya
    outPairs := pass2 k s 1 wv
    outFrag := outFrag
    cs := cs
    css := sy ^^^ cipherE k 0 (2 - d) cs ^^^ delta ^^^ ya }

/-- A pair as 32 bytes, the first block first. -/
def pairBytes (q : Block × Block) : List Byte := bytesOfBlock q.1 ++ bytesOfBlock q.2

/-- The output of R275: `OutPair_1 ‖ … ‖ OutPair_p ‖ OutFrag ‖ C** ‖ C*`. -/
def joinOutput (r : CoreRun) : List Byte :=
  r.outPairs.flatMap pairBytes ++ r.outFrag ++ bytesOfBlock r.css ++ bytesOfBlock r.cs

/-- `Core(P, d, Δ)` for |P| ≥ 32 (R275). -/
def wideBlock (k : Subkeys) (d : Nat) (delta : Block) (s : List Byte) : List Byte :=
  joinOutput (coreRun k d delta (splitInput s))

end Sys2Proof.Machine
end

