-- ==== Sys2Proof/Machine/CmdCore.lean ====
section
/-! DEFINITION. ENC and DEC (45_core.md R276, R277). -/

namespace Sys2Proof.Machine

/-- The checks ENC and DEC list (R276, R303). -/
def State.coreChecks (s : State) : List (Bool × ErrCode) :=
  [(!s.keyv, .nokey), (!s.hashv, .nohash), (decide (s.coreLen < 32), .len),
    (s.outOfRange s.coreSrc s.coreLen || s.outOfRange s.coreDst s.coreLen, .range),
    (overlaps s.coreSrc s.coreDst s.coreLen, .overlap)]

/-- The writes of AEZ-core in direction `d`: `MemWrite(dst, m, Core(MemRead(src, m), d, DELTA))` (R276, R277). The input is
read whole before anything is written (R97). -/
def State.writeCore (s : State) (d : Nat) : State :=
  s.memWrite s.coreDst (wideBlock s.subkeys d s.delta (s.memRead s.coreSrc s.coreLen))

/-- ENC (R276), d = 0. -/
def execEnc (s : State) : Outcome := finish s s.coreChecks (s.writeCore 0)

/-- DEC (R277), d = 1. -/
def execDec (s : State) : Outcome := finish s s.coreChecks (s.writeCore 1)

end Sys2Proof.Machine
end

