-- ==== Sys2Proof/Machine/Hash.lean ====
section
/-! DEFINITION. AEZ-hash (43_hash.md R230 to R232). -/

namespace Sys2Proof.Machine

/-- The τ block's contribution, `E(3, 1, to_block(τ))` (R230, R232). -/
def hashTau (k : Subkeys) (tau : Word) : Block := cipherE k 3 1 (toBlock tau)

/-- The full blocks of `Habs(i, s)`: block j, counted from 1, is `s[16(j-1) .. 16j)` (R231). -/
def habsFull (k : Subkeys) (i : Int) (s : List Byte) : Block :=
  (List.range (s.length / 16)).foldl (fun acc t => acc ^^^ cipherE k i (t + 1) (blockAt s (16 * t))) 0#128

/-- `Habs(i, s)` (R231): the full blocks, and one padded block if bytes are left over or s is empty. -/
def habs (k : Subkeys) (i : Int) (s : List Byte) : Block :=
  if s.length % 16 > 0 ∨ s.length = 0 then
    habsFull k i s ^^^ cipherE k i 0 (pad10 (s.drop (16 * (s.length / 16))))
  else habsFull k i s

/-- `Hash(τ, N, A)` (R232): the τ block, the nonce under tweak index 4, AD element k under tweak index 5 + k. No command
computes it whole: HINIT and one HABS per string do. -/
def aezHash (k : Subkeys) (tau : Word) (nonce : List Byte) (ad : List (List Byte)) : Block :=
  hashTau k tau ^^^ habs k 4 nonce ^^^ xorAll (ad.mapIdx fun t a => habs k ((5 + t : Nat) : Int) a)

end Sys2Proof.Machine
end

