-- ==== Sys2Proof/Machine/CmdHash.lean ====
section
/-! DEFINITION. HINIT and HABS (43_hash.md R235, R236). -/

namespace Sys2Proof.Machine

/-- HINIT (R235): `DELTA <- E(3, 1, to_block(ARG0)); HASHV <- 1`. -/
def execHinit (s : State) : Outcome :=
  finish s [(!s.keyv, .nokey)] (s.loadDelta (hashTau s.subkeys s.hinitTau))

/-- The checks HABS lists (R236, R303). -/
def State.habsChecks (s : State) : List (Bool × ErrCode) :=
  [(!s.keyv, .nokey), (!s.hashv, .nohash), (decide (s.habsTweak < 3), .tweak),
    (s.outOfRange s.habsSrc s.habsLen, .range)]

/-- HABS (R236): `DELTA <- DELTA ⊕ Habs(i, MemRead(a, n))`. -/
def execHabs (s : State) : Outcome :=
  finish s s.habsChecks
    (s.setDelta (s.delta ^^^ habs s.subkeys (s.habsTweak : Int) (s.memRead s.habsSrc s.habsLen)))

end Sys2Proof.Machine
end

