-- ==== Sys2Proof/Machine/Prf.lean ====
section
/-! DEFINITION. AEZ-prf (44_prf.md R250, R251). -/

namespace Sys2Proof.Machine

/-- Keystream block c, `E(-1, 3, Δ ⊕ [c]_128)` (R250). -/
def prfBlock (k : Subkeys) (delta : Block) (c : Nat) : Block := cipherE k (-1) 3 (delta ^^^ blk c)

/-- `Prf(Δ, n)` (R250): ⌈n/16⌉ blocks, truncated to n bytes. -/
def prf (k : Subkeys) (delta : Block) (n : Nat) : List Byte :=
  ((List.range ((n + 15) / 16)).flatMap fun c => bytesOfBlock (prfBlock k delta c)).take n

end Sys2Proof.Machine
end

