-- ==== Sys2Proof/Machine/CmdPrf.lean ====
section
/-! DEFINITION. PRF (44_prf.md R252). -/

namespace Sys2Proof.Machine

/-- The checks PRF lists (R252, R303). -/
def State.prfChecks (s : State) : List (Bool × ErrCode) :=
  [(!s.keyv, .nokey), (!s.hashv, .nohash), (s.outOfRange s.prfDst s.prfLen, .range)]

/-- PRF (R252): `MemWrite(a, n, Prf(DELTA, n))`; DELTA is not changed. -/
def execPrf (s : State) : Outcome :=
  finish s s.prfChecks (s.memWrite s.prfDst (prf s.subkeys s.delta s.prfLen))

end Sys2Proof.Machine
end

