-- ==== Sys2Proof/Machine/CmdTweak.lean ====
section
/-! DEFINITION. OFS and E (42_tweak_cipher.md R210, R211). -/

namespace Sys2Proof.Machine

/-- The checks OFS and E list (R202, R210, R211, R303). -/
def State.tweakChecks (s : State) : List (Bool × ErrCode) :=
  [(!s.keyv, .nokey), (!legalTweak s.tweakI s.tweakJ, .tweak)]

/-- OFS (R210): `B[RD] <- Ofs(i, j)`. -/
def execOfs (rd : Reg) (s : State) : Outcome :=
  finish s s.tweakChecks (s.setB rd (ofs s.subkeys s.tweakI s.tweakJ))

/-- E (R211): `B[RD] <- E(i, j, B[RA])`. -/
def execE (rd ra : Reg) (s : State) : Outcome :=
  finish s s.tweakChecks (s.setB rd (cipherE s.subkeys s.tweakI s.tweakJ (s.getB ra)))

end Sys2Proof.Machine
end

