-- ==== Sys2Proof/Machine/Dispatch.lean ====
section
/-! DEFINITION. The dispatch: one arm per command of 30_encoding.md R115, in the table's order. -/

namespace Sys2Proof.Machine

/-- What the pending command does when it is command `i` (R312). -/
def exec (i : Instr) (s : State) : Host.Outcome State Fault Refusal :=
  match i with
  | .nop => Sys2Proof.Machine.execNop s
  | .dbl rd ra => Sys2Proof.Machine.execDbl rd ra s
  | .xor rd ra rb => Sys2Proof.Machine.execXor rd ra rb s
  | .muli rd ra => Sys2Proof.Machine.execMuli rd ra s
  | .aesr rd ra rb => Sys2Proof.Machine.execAesr rd ra rb s
  | .aes4 rd ra => Sys2Proof.Machine.execAes4 rd ra s
  | .ldrk ra f all => Sys2Proof.Machine.execLdrk ra f all s
  | .ldkey ra f => Sys2Proof.Machine.execLdkey ra f s
  | .ofs rd => Sys2Proof.Machine.execOfs rd s
  | .e rd ra => Sys2Proof.Machine.execE rd ra s
  | .ldd ra => Sys2Proof.Machine.execLdd ra s
  | .std rd => Sys2Proof.Machine.execStd rd s
  | .ldb rd => Sys2Proof.Machine.execLdb rd s
  | .stb ra => Sys2Proof.Machine.execStb ra s
  | .zero => Sys2Proof.Machine.execZero s
  | .hinit => Sys2Proof.Machine.execHinit s
  | .habs => Sys2Proof.Machine.execHabs s
  | .prf => Sys2Proof.Machine.execPrf s
  | .enc => Sys2Proof.Machine.execEnc s
  | .dec => Sys2Proof.Machine.execDec s

end Sys2Proof.Machine
end

