-- ==== Sys2Proof/Machine/Window.lean ====
section
/-! DEFINITION. The register window: its map, and the host's reads and writes (10_state.md R32 to R47; 20 R82 to R92; 70
R340). -/

namespace Sys2Proof.Machine

/-- What an offset of the window names (R45). -/
inductive Target where
  | id
  | version
  | ctrl
  | status
  | cmd
  | errcmd
  | arg (n : Fin 4)
  | block (n : Reg) (w : Fin 4)
  | delta (w : Fin 4)
  | key (k : KeyName) (w : Fin 4)
  | rk (k : Fin 4) (w : Fin 4)
  | dmem (a : Nat)
  | reserved
deriving DecidableEq, Repr

/-- The size of the window, 2 MiB (R88). -/
def windowSize : Nat := 0x200000

/-- The offset of DMEM byte 0 (R7, R45). -/
def dmemOffset : Nat := 0x100000

/-- Word w of a 128-bit register, by offset (R46). -/
def wordIndex (off : Nat) : Fin 4 := Fin.ofNat 4 (off / 4)

/-- The words at 0x000..0x00F (R45). -/
def csrLow (off : Nat) : Target :=
  match off / 4 with
  | 0 => .id
  | 1 => .version
  | 2 => .ctrl
  | _ => .status

/-- The words at 0x010..0x01F (R45). -/
def csrCommand (off : Nat) : Target :=
  match off / 4 with
  | 4 => .cmd
  | 5 => .errcmd
  | _ => .reserved

/-- The CSR map (R45), sixteen bytes a line. -/
def csrOf (off : Nat) : Target :=
  match off / 16 with
  | 0x00 => csrLow off
  | 0x01 => csrCommand off
  | 0x02 => .arg (wordIndex off)
  | 0x10 => .block 0 (wordIndex off)
  | 0x11 => .block 1 (wordIndex off)
  | 0x12 => .block 2 (wordIndex off)
  | 0x13 => .block 3 (wordIndex off)
  | 0x14 => .block 4 (wordIndex off)
  | 0x15 => .block 5 (wordIndex off)
  | 0x16 => .block 6 (wordIndex off)
  | 0x17 => .block 7 (wordIndex off)
  | 0x18 => .delta (wordIndex off)
  | 0x20 => .key .ki (wordIndex off)
  | 0x21 => .key .kj (wordIndex off)
  | 0x22 => .key .kl (wordIndex off)
  | 0x24 => .rk 0 (wordIndex off)
  | 0x25 => .rk 1 (wordIndex off)
  | 0x26 => .rk 2 (wordIndex off)
  | 0x27 => .rk 3 (wordIndex off)
  | _ => .reserved

/-- The whole window (R45). -/
def targetOf (p : Params) (off : Nat) : Target :=
  if off < dmemOffset then csrOf off
  else if off < dmemOffset + p.dmemSize then .dmem (off - dmemOffset)
  else .reserved

/-- A bus address inside the window (R88). -/
def inWindow (p : Params) (addr : Nat) : Bool := decide (p.blockBase ≤ addr ∧ addr < p.blockBase + windowSize)

/-- The widths and alignments R85 and R86 admit: 8, 16 or 32 bits naturally aligned in DMEM, 32 bits at a multiple of 4
everywhere else in the window (log entry 10). -/
def admittedAt (t : Target) (off bytes : Nat) : Bool :=
  match t with
  | .dmem _ => (bytes == 1 || bytes == 2 || bytes == 4) && off % bytes == 0
  | _ => bytes == 4 && off % 4 == 0

/-- The bus address of an access. -/
def HostAccess.addr : HostAccess → Nat
  | .read addr _ => addr
  | .write addr _ _ => addr

/-- The width of an access in bytes. -/
def HostAccess.bytes : HostAccess → Nat
  | .read _ n => n
  | .write _ n _ => n

/-- The offset in the window of an access. -/
def HostAccess.offset (a : HostAccess) (p : Params) : Nat := a.addr - p.blockBase

/-- What an access names (R45). -/
def HostAccess.target (a : HostAccess) (p : Params) : Target := targetOf p (a.offset p)

/-- The host has a step for this access (R85, R86). -/
def HostAccess.admitted (a : HostAccess) (p : Params) : Bool :=
  inWindow p a.addr && admittedAt (a.target p) (a.offset p) a.bytes

/-- The registers and bytes whose reads are draws while BUSY = 1 (R92). -/
def Target.drawnWhileBusy : Target → Bool
  | .block _ _ | .delta _ | .dmem _ => true
  | .id | .version | .ctrl | .status | .cmd | .errcmd | .arg _ | .key _ _ | .rk _ _ | .reserved => false

/-- The registers and bytes whose writes are dropped while BUSY = 1 (R340). -/
def Target.droppedWhileBusy : Target → Bool
  | .cmd | .arg _ | .block _ _ | .delta _ | .key _ _ | .rk _ _ | .dmem _ => true
  | .id | .version | .ctrl | .status | .errcmd | .reserved => false

/-- A host read of `bytes` DMEM bytes from `a`, little-endian in the word (R82). DESIGN CHOICE: an 8-bit or 16-bit access
returns 8 or 16 bits, and the bits above them in the model's 32-bit word, for which the spec has no words, are 0 (log entry
19); that an 8-bit access's byte stands in bits 7:0 is DEDUCED (log entry 10). -/
def State.dmemWord (s : State) (a bytes : Nat) : Word :=
  wordOfBytes (s.readByte a) (if 1 < bytes then s.readByte (a + 1) else 0#8)
    (if 2 < bytes then s.readByte (a + 2) else 0#8) (if 3 < bytes then s.readByte (a + 3) else 0#8)

/-- What the host reads (R33, R35, R37 to R43, R46, R47, R82), the draws of R92 apart. -/
def State.readTarget (s : State) (t : Target) (bytes : Nat) : Word :=
  match t with
  | .id => Config.idWord
  | .version => Config.versionWord
  | .ctrl => s.ctrlWord
  | .status => s.statusWord
  | .cmd => s.cmd
  | .errcmd => s.errcmd
  | .arg n => s.arg[n]
  | .block n w => regWord (s.getB n) w
  | .delta w => regWord s.delta w
  | .key _ _ => 0#32
  | .rk _ _ => 0#32
  | .dmem a => s.dmemWord a bytes
  | .reserved => 0#32

/-- A host read: it changes nothing of AEZC (R87); the word it returns is kept in `rdata` (log entry 6). While BUSY = 1
a read of B, DELTA or DMEM returns a draw (R92, log entry 4). -/
def State.hostRead (s : State) (t : Target) (bytes : Nat) : State :=
  if s.busy && t.drawnWhileBusy then { s with rdata := Config.busyWord s.draws, draws := s.draws + 1 }
  else { s with rdata := s.readTarget t bytes }

/-- A dropped write: nothing but OVR <- 1 (R340). -/
def State.dropWrite (s : State) : State := { s with ovr := true }

/-- A host write to CTRL (R42): SRST = 1 is a soft reset, else IRQ_EN takes bit 0. -/
def State.writeCtrl (s : State) (v : Word) : State :=
  if v.getLsbD 1 then s.softReset else { s with irqEn := v.getLsbD 0 }

/-- A host write that is not dropped (R33 to R43, R46, R47, R82). -/
def State.writeTarget (s : State) (t : Target) (bytes : Nat) (v : Word) : State :=
  match t with
  | .id => s
  | .version => s
  | .ctrl => s.writeCtrl v
  | .status => s.clearStatus v
  | .cmd => s.issue v
  | .errcmd => s
  | .arg n => s.setArg n v
  | .block n w => s.setB n (setRegWord (s.getB n) w v)
  | .delta w => s.loadDelta (setRegWord s.delta w v)
  | .key k w => s.setKey k (setRegWord (s.getKey k) w v)
  | .rk k w => s.setRk k (setRegWord (s.getRk k) w v)
  | .dmem a => s.memWrite a ((List.range bytes).map (wordByte v))
  | .reserved => s

/-- A host write: dropped while BUSY = 1 where R340 says so, made otherwise. -/
def State.hostWrite (s : State) (t : Target) (bytes : Nat) (v : Word) : State :=
  if s.busy && t.droppedWhileBusy then s.dropWrite else s.writeTarget t bytes v

/-- An admitted host access (R91: at once, in program order). -/
def State.hostAccess (s : State) (a : HostAccess) : State :=
  match a with
  | .read _ bytes => s.hostRead (a.target s.params) bytes
  | .write _ bytes v => s.hostWrite (a.target s.params) bytes v

end Sys2Proof.Machine
end

