-- ==== Sys2Proof/Machine/Engine.lean ====
section
/-! DEFINITION. The engine's step, and one step of the whole machine (60_exceptions.md R311, R312; 70 R330, R340). -/

namespace Sys2Proof.Machine

/-- The completion of pending command word `cw` (R312): the command it decodes to, or ILLEGAL (R302). -/
def State.runWord (s : State) (cw : Word) : Outcome :=
  match decode cw with
  | .ok i => exec i s
  | .error _ => .next (s.raiseError .illegal)

/-- The engine's turn (R312): with a command pending it completes it; with none it has no step and nothing changes. -/
def State.engineTurn (s : State) : Outcome :=
  match s.pending with
  | some p => s.runWord p.cw
  | none => .next s

/-- Why the host is stuck on an access that is not admitted. -/
def stuckReason (p : Params) (a : HostAccess) : Fault := if inWindow p a.addr then .hostStuck else .outsideWindow

/-- The host's turn, its next access `a` first in the script and `rest` after it. An access that is not admitted has no
step, so while a command is pending the engine's completion is the only step there is (R312, R317; log entry 8). -/
def State.hostTurn (s : State) (a : HostAccess) (rest : List Event) : Outcome :=
  if a.admitted s.params then .next ({ s with script := rest }.hostAccess a)
  else if s.busy then s.engineTurn
  else .fault (stuckReason s.params a)

/-- One step of the machine: the next move of the script, or the engine's completion when no move is left (fairness,
R312; log entries 6 and 7). -/
def agentStep (s : State) : Outcome :=
  match s.script with
  | [] => s.engineTurn
  | .engine :: rest => { s with script := rest }.engineTurn
  | .hardReset :: rest => .next { s with script := rest }.hardReset
  | .access a :: rest => s.hostTurn a rest

/-- `s` with command word `v` issued (R311) and the engine's turn next. -/
def State.placeCommand (s : State) (v : Word) : State := { s.issue v with script := .engine :: s.script }

end Sys2Proof.Machine
end

