-- ==== Sys2Proof/Machine/Step.lean ====
section
/-! DEFINITION. The step, and placing a command word where the step runs it next. -/

namespace Sys2Proof.Machine

/-- One step of AEZC, its host and its platform. -/
def step (s : State) : Host.Outcome State Fault Refusal := agentStep s

/-- `s` with the opcode-table word `w` as the pending command and the engine's turn next, so that `step` runs exactly it
(log entry 12). -/
def State.withFetchWord (s : State) (nbits w : Nat) : State := s.placeCommand (BitVec.ofNat 32 (w % 2 ^ nbits))

end Sys2Proof.Machine
end

