-- ==== Sys2Proof/Safety.lean ====
section
/-! DEFINITION. What counts as a safe state and a safe run, and what a command leaves unchanged, in the terms the
statements use. -/

namespace Sys2Proof.Machine

/-- The machine's invariant: it holds after reset and every step keeps it. -/
structure State.Inv (s : State) : Prop where
  /-- DMEM is in its canonical form. -/
  memWf : s.dmem.wf = true
  /-- No byte outside [0, DMEM_SIZE) has been written (R8, R303). -/
  memBelow : s.dmem.below s.params.dmemSize = true
  /-- While a command is pending, CMD and ARG still hold what it was issued with (R311, R340). -/
  pendingSampled : ∀ p, s.pending = some p → p.cw = s.cmd ∧ p.arg = s.arg
  /-- DONE, ERR and ERRCODE are 0 from issue to completion (R311). -/
  pendingClear : s.busy = true → s.done = false ∧ s.err = false ∧ s.errcode = 0#8
  /-- ERR = 1 exactly when ERRCODE is not 0 (R43, R312). -/
  errIffCode : s.err = true ↔ s.errcode ≠ 0#8
  /-- Codes 0x08..0xFF are never written (R300). -/
  codeLegal : s.errcode.toNat ≤ 7
  /-- A key register whose KW bit is 0 holds 0: nothing has written it (R34, R160). -/
  kiUnwritten : s.kw.getLsbD 0 = false → s.ki = 0#128
  kjUnwritten : s.kw.getLsbD 1 = false → s.kj = 0#128
  klUnwritten : s.kw.getLsbD 2 = false → s.kl = 0#128
  /-- DELTA holds 0 while HASHV = 0 (R36, R160). -/
  deltaUnwritten : s.hashv = false → s.delta = 0#128

/-- The last completed command did not fail: the premise R317 asks a claim about a program to take. -/
def State.NoError (s : State) : Prop := s.err = false

/-- A run of `k` steps that stops nowhere and passes only through states without an error (R317). -/
def SafeRun : Nat → State → Prop
  | 0, s => s.NoError
  | k + 1, s => s.NoError ∧ ∃ t, step s = .next t ∧ SafeRun k t

/-- A run is over (R350): no move of the script is left and no command is pending. -/
def State.RunOver (s : State) : Prop := s.script = [] ∧ s.busy = false

/-- The host program `moves` reads STATUS after its last command (R350): some read of STATUS has no CMD write after it.
DESIGN CHOICE (log entry 20): R350 has no words for a program without a command, for a CMD write that is dropped while
BUSY = 1, and for what the read must see. The model asks for a read of STATUS even with no command, counts every CMD write
as a command, a dropped one too, and takes a read that sees BUSY = 1; that no command is pending at the end is `RunOver`. -/
def ReadsStatusLast (p : Params) (moves : List Event) : Prop :=
  ∃ before after, moves = before ++ .access (.read (p.blockBase + 0x00C) 4) :: after ∧
    ∀ v, Event.access (.write (p.blockBase + 0x010) 4 v) ∉ after

/-- The next step is the engine's turn, and `rest` is the script it leaves: no move is left, or the engine is the next
move, or the host is stuck at the next one, which then stays (log entries 6 and 8). -/
def EngineNext (s : State) (rest : List Event) : Prop :=
  (s.script = [] ∧ rest = []) ∨ s.script = .engine :: rest ∨
    ∃ a more, s.script = .access a :: more ∧ a.admitted s.params = false ∧ rest = s.script

/-! ### Frames -/

/-- Every block register but `rd` is unchanged. -/
def SameBlocksBut (rd : Reg) (s t : State) : Prop := ∀ n, n ≠ rd → t.getB n = s.getB n

/-- Every block register is unchanged. -/
def SameBlocks (s t : State) : Prop := ∀ n, t.getB n = s.getB n

/-- KI, KJ, KL and KW are unchanged. -/
def SameKeys (s t : State) : Prop := t.ki = s.ki ∧ t.kj = s.kj ∧ t.kl = s.kl ∧ t.kw = s.kw

/-- Every RK register is unchanged. -/
def SameRk (s t : State) : Prop := ∀ k, t.getRk k = s.getRk k

/-- DELTA and HASHV are unchanged. -/
def SameDelta (s t : State) : Prop := t.delta = s.delta ∧ t.hashv = s.hashv

/-- Every byte of DMEM reads as before. -/
def SameMem (s t : State) : Prop := ∀ a, t.readByte a = s.readByte a

/-- Every byte of DMEM outside [a, a + n) reads as before. -/
def SameMemOutside (a n : Nat) (s t : State) : Prop := ∀ x, ¬(a ≤ x ∧ x < a + n) → t.readByte x = s.readByte x

/-- What no command changes: CTRL, OVR, ARG, CMD, the platform and the model's own fields (R37, R38, R44). -/
structure Kept (s t : State) : Prop where
  irqEn : t.irqEn = s.irqEn
  ovr : t.ovr = s.ovr
  arg : t.arg = s.arg
  cmd : t.cmd = s.cmd
  params : t.params = s.params
  epoch : t.epoch = s.epoch
  draws : t.draws = s.draws
  script : t.script = s.script
  rdata : t.rdata = s.rdata

/-- `t` is `s` after a successful completion, so far as flags go (R312): BUSY = 0, DONE = 1, ERRCODE = 0x00, ERR and
ERRCMD as they were. -/
structure Succeeded (s t : State) : Prop where
  kept : Kept s t
  busy : t.busy = false
  done : t.done = true
  errcode : t.errcode = 0x00#8
  err : t.err = s.err
  errcmd : t.errcmd = s.errcmd

/-- `t` is `s` after completion with error `e`, and nothing else has changed (R304, R305, R312). -/
structure Failed (e : ErrCode) (s t : State) : Prop where
  kept : Kept s t
  busy : t.busy = false
  done : t.done = true
  errcode : t.errcode = e.code
  err : t.err = true
  errcmd : t.errcmd = s.issued.cw
  blocks : SameBlocks s t
  keys : SameKeys s t
  rk : SameRk s t
  delta : SameDelta s t
  mem : SameMem s t

/-- A successful command that writes block register `rd` and nothing else. -/
structure WritesBlock (rd : Reg) (v : Block) (s t : State) : Prop where
  result : t.getB rd = v
  blocks : SameBlocksBut rd s t
  keys : SameKeys s t
  rk : SameRk s t
  delta : SameDelta s t
  mem : SameMem s t
  flags : Succeeded s t

/-- A successful command that writes DELTA (and leaves HASHV at 1) and nothing else. -/
structure WritesDelta (v : Block) (s t : State) : Prop where
  result : t.delta = v
  hashv : t.hashv = true
  blocks : SameBlocks s t
  keys : SameKeys s t
  rk : SameRk s t
  mem : SameMem s t
  flags : Succeeded s t

/-- A successful command that stores the byte string `bytes` at DMEM address `a` and writes nothing else. -/
structure WritesMem (a : Nat) (bytes : List Byte) (s t : State) : Prop where
  stored : t.memRead a bytes.length = bytes
  mem : SameMemOutside a bytes.length s t
  blocks : SameBlocks s t
  keys : SameKeys s t
  rk : SameRk s t
  delta : SameDelta s t
  flags : Succeeded s t

end Sys2Proof.Machine
end

