-- ==== Sys2Proof/Certificates/Slice0/Obligations.lean ====
section
/-! DEFINITION. The statements about AEZC for the provers. Each docstring names the rules of spec/ it comes from. -/

open Sys2Proof Sys2Proof.Machine

namespace Sys2Proof.Certificates

/-! ### Terms of the statements -/

/-- The host's next move is a read of `n` bytes at window offset `off`. -/
def NextRead (s : State) (off n : Nat) (rest : List Event) : Prop :=
  s.script = .access (.read (s.params.blockBase + off) n) :: rest

/-- The host's next move is a write of `n` bytes of `v` at window offset `off`. -/
def NextWrite (s : State) (off n : Nat) (v : Word) (rest : List Event) : Prop :=
  s.script = .access (.write (s.params.blockBase + off) n v) :: rest

/-- An access of `n` bytes at DMEM byte `a` that R86 admits: 8, 16 or 32 bits, naturally aligned, inside DMEM. -/
def DmemAccess (s : State) (a n : Nat) : Prop :=
  (n = 1 ∨ n = 2 ∨ n = 4) ∧ a % n = 0 ∧ a + n ≤ s.params.dmemSize

/-- The word-aligned reserved offsets of the map of R45. -/
def ReservedOffset (p : Params) (off : Nat) : Prop :=
  off % 4 = 0 ∧
    ((0x018 ≤ off ∧ off < 0x020) ∨ (0x030 ≤ off ∧ off < 0x100) ∨ (0x190 ≤ off ∧ off < 0x200) ∨
      (0x230 ≤ off ∧ off < 0x240) ∨ (0x280 ≤ off ∧ off < 0x100000) ∨
      (0x100000 + p.dmemSize ≤ off ∧ off < 0x200000))

/-- The word-aligned offsets of CMD, ARG, B, DELTA, the keys and RK (R45): those whose writes are dropped while BUSY = 1,
DMEM apart (R340). -/
def DroppedOffset (off : Nat) : Prop :=
  off % 4 = 0 ∧
    (off = 0x010 ∨ (0x020 ≤ off ∧ off < 0x030) ∨ (0x100 ≤ off ∧ off < 0x190) ∨ (0x200 ≤ off ∧ off < 0x230) ∨
      (0x240 ≤ off ∧ off < 0x280))

/-- The column "uses" of the opcode map (R115), by opcode. -/
def usesTable : List (Nat × List Field) :=
  [(0x00, []), (0x01, [.rd, .ra]), (0x02, [.rd, .ra, .rb]), (0x03, [.rd, .ra]), (0x04, [.rd, .ra, .rb]),
    (0x05, [.rd, .ra]), (0x06, [.ra, .f, .all]), (0x07, [.ra, .f]), (0x08, [.rd]), (0x09, [.rd, .ra]), (0x0A, [.ra]),
    (0x0B, [.rd]), (0x0C, [.rd]), (0x0D, [.ra]), (0x0E, []), (0x10, []), (0x11, []), (0x18, []), (0x20, []),
    (0x21, [])]

/-- The errors a command can raise (the last column of R300). -/
def errorsOf : Instr → List ErrCode
  | .nop | .xor _ _ _ | .dbl _ _ | .muli _ _ | .aesr _ _ _ | .aes4 _ _ | .ldrk _ _ _ | .ldkey _ _ | .ldd _ | .std _
  | .zero => [.illegal]
  | .ofs _ | .e _ _ => [.illegal, .nokey, .tweak]
  | .hinit => [.illegal, .nokey]
  | .habs => [.illegal, .nokey, .nohash, .tweak, .range]
  | .prf => [.illegal, .nokey, .nohash, .range]
  | .ldb _ | .stb _ => [.illegal, .range]
  | .enc | .dec => [.illegal, .nokey, .nohash, .len, .range, .overlap]

/-- The commands that write block registers (R32). -/
def writesBlocks : Instr → Bool
  | .dbl _ _ | .xor _ _ _ | .muli _ _ | .aesr _ _ _ | .aes4 _ _ | .ofs _ | .e _ _ | .std _ | .ldb _ | .zero => true
  | .nop | .ldrk _ _ _ | .ldkey _ _ | .ldd _ | .stb _ | .hinit | .habs | .prf | .enc | .dec => false

/-- The commands that write the key registers (R33, R34). -/
def writesKeys : Instr → Bool
  | .ldkey _ _ | .zero => true
  | .nop | .dbl _ _ | .xor _ _ _ | .muli _ _ | .aesr _ _ _ | .aes4 _ _ | .ldrk _ _ _ | .ofs _ | .e _ _ | .ldd _
  | .std _ | .ldb _ | .stb _ | .hinit | .habs | .prf | .enc | .dec => false

/-- The commands that write RK (R35). -/
def writesRk : Instr → Bool
  | .ldrk _ _ _ | .zero => true
  | .nop | .dbl _ _ | .xor _ _ _ | .muli _ _ | .aesr _ _ _ | .aes4 _ _ | .ldkey _ _ | .ofs _ | .e _ _ | .ldd _
  | .std _ | .ldb _ | .stb _ | .hinit | .habs | .prf | .enc | .dec => false

/-- The commands that write DELTA or HASHV (R36). -/
def writesDelta : Instr → Bool
  | .hinit | .habs | .ldd _ | .zero => true
  | .nop | .dbl _ _ | .xor _ _ _ | .muli _ _ | .aesr _ _ _ | .aes4 _ _ | .ldrk _ _ _ | .ldkey _ _ | .ofs _ | .e _ _
  | .std _ | .ldb _ | .stb _ | .prf | .enc | .dec => false

/-- The commands that write DMEM (R80). -/
def writesDmem : Instr → Bool
  | .stb _ | .prf | .enc | .dec => true
  | .nop | .dbl _ _ | .xor _ _ _ | .muli _ _ | .aesr _ _ _ | .aes4 _ _ | .ldrk _ _ _ | .ldkey _ _ | .ofs _ | .e _ _
  | .ldd _ | .std _ | .ldb _ | .zero | .hinit | .habs => false

/-- Every register and flag holds its value of the table of R51 (DMEM, ID and VERSION apart). -/
structure RegistersAtReset (t : State) : Prop where
  b : ∀ n, t.getB n = 0#128
  keys : t.ki = 0#128 ∧ t.kj = 0#128 ∧ t.kl = 0#128
  kw : t.kw = 0b000#3 ∧ t.keyv = false
  rk : ∀ k, t.getRk k = 0#128
  delta : t.delta = 0#128 ∧ t.hashv = false
  arg : ∀ n : Fin 4, t.arg[n] = 0#32
  cmd : t.cmd = 0#32 ∧ t.errcmd = 0#32
  ctrl : t.ctrlWord = 0#32 ∧ t.irqEn = false
  status : t.statusWord = 0#32
  pending : t.pending = none
  irq : t.irq = false

/-- HABS pending in `s` with operands `x` (command word 0x11). -/
def withHabs (s : State) (x : Vector Word 4) : State := { s with pending := some { cw := 0x00000011#32, arg := x } }

/-- DEC pending in `s` with source `src`, destination `dst` and length `len` (command word 0x21). -/
def withDec (s : State) (src dst len : Word) : State :=
  { s with pending := some { cw := 0x00000021#32, arg := #v[src, dst, len, 0#32] } }

/-- `2·x` in GF(2^8) modulo x^8 + x^4 + x^3 + x + 1 (R173): a shift, reduced by 0x1B when x ≥ 0x80. -/
def gf8Double (x : Byte) : Byte := if x.toNat ≥ 0x80 then (x <<< 1) ^^^ 0x1B#8 else x <<< 1

/-- `3·x` (R173). -/
def gf8Triple (x : Byte) : Byte := gf8Double x ^^^ x

/-- The product in GF(2^8), by shift and add on the bits of `y`. -/
def gf8Mul (x y : Byte) : Byte :=
  (List.range 8).foldr (fun t acc => gf8Double acc ^^^ (if y.getLsbD t then x else 0#8)) 0#8

/-- The affine map A of R171: bit t of the result is b_t ⊕ b_(t+4) ⊕ b_(t+5) ⊕ b_(t+6) ⊕ b_(t+7), indexes mod 8. -/
def affineA (x : Byte) : Byte :=
  BitVec.ofBoolListLE ((List.range 8).map fun t =>
    x.getLsbD t ^^ x.getLsbD ((t + 4) % 8) ^^ x.getLsbD ((t + 5) % 8) ^^ x.getLsbD ((t + 6) % 8)
      ^^ x.getLsbD ((t + 7) % 8))

/-- Two states that differ in nothing but the key and schedule registers. -/
def SameButKeys (s t : State) : Prop := t = { s with ki := t.ki, kj := t.kj, kl := t.kl, rk := t.rk }

end Sys2Proof.Certificates

open Sys2Proof.Certificates

/-! ### Encoding -/

/-- Every well-formed command decodes from its own word with every operand as it was (R111, R112, R115). -/
def Obligations.DecodeInvertsEncode : Prop := ∀ i : Instr, i.wellFormed = true → decode (encode i) = .ok i

/-- Every legal word is the word of the one command it decodes to, so no bit of it is ignored (R112, R116). -/
def Obligations.EncodeInvertsDecode : Prop :=
  ∀ (w : Word) (i : Instr), decode w = .ok i → i.wellFormed = true ∧ encode i = w

/-- A few words of the test vectors decode to the commands they stand for (R111, R115). -/
def Obligations.SampleWordsDecode : Prop :=
  decode 0x00021302#32 = .ok (.xor 3 1 2) ∧ decode 0x00205006#32 = .ok (.ldrk 5 2 false) ∧
  decode 0x00400006#32 = .ok (.ldrk 0 0 true) ∧ decode 0x00103007#32 = .ok (.ldkey 3 1) ∧
  decode 0x00001209#32 = .ok (.e 2 1) ∧ decode 0x0000400D#32 = .ok (.stb 4) ∧ decode 0x00000021#32 = .ok .dec

/-- The illegal words of R116, class by class: (a) an opcode outside the map, (b) a reserved bit, (c) a field the opcode
does not use, (d) LDKEY with F = 3, (e) LDRK with ALL = 1 and F not 0. -/
def Obligations.IllegalWordsAreRejected : Prop :=
  (∀ w : Word, (∀ c ∈ usesTable, c.1 ≠ (opcOf w).toNat) → ∃ r, decode w = .error r) ∧
  (∀ w : Word, w &&& 0xFF888800#32 ≠ 0#32 → ∃ r, decode w = .error r) ∧
  (∀ (w : Word) (c : Nat × List Field) (g : Field), c ∈ usesTable → (opcOf w).toNat = c.1 → g ∉ c.2 →
    w &&& g.mask ≠ 0#32 → ∃ r, decode w = .error r) ∧
  (∀ w : Word, opcOf w = 0x07#8 → fOf w = 3 → ∃ r, decode w = .error r) ∧
  (∀ w : Word, opcOf w = 0x06#8 → allOf w = true → fOf w ≠ 0 → ∃ r, decode w = .error r)

/-! ### The step -/

/-- When the pending word decodes to command i, the engine's step is exec of i, with the script's engine move taken off
first if there is one (R302, R312). The script is the model's choice (log entry 6), and so is the third clause, a stuck
host whose move stays (log entry 8). -/
def Obligations.StepRunsTheDecodedCommand : Prop :=
  ∀ (s : State) (p : Pending) (i : Instr), s.pending = some p → decode p.cw = .ok i →
    (s.script = [] → step s = exec i s) ∧
    (∀ rest, s.script = .engine :: rest → step s = exec i { s with script := rest }) ∧
    (∀ a rest, s.script = .access a :: rest → a.admitted s.params = false → step s = exec i s)

/-- An illegal pending word completes with ILLEGAL and no other effect, on every path to its completion (R116, R302, R304).
The paths are the model's choice (log entries 6 and 8). -/
def Obligations.IllegalWordCompletesWithIllegal : Prop :=
  ∀ (s : State) (p : Pending) (r : Reject) (rest : List Event), s.pending = some p → decode p.cw = .error r →
    EngineNext s rest → ∃ t, step s = .next t ∧ Failed .illegal { s with script := rest } t ∧ t.errcode = 0x01#8 ∧
      t.errcmd = p.cw

/-- With no command pending the engine's turn changes nothing (R312, R332; log entry 7); a host whose next access is not
admitted has no step, so the machine stops, or completes the pending command first (R317). That the completion comes first
is the model's choice (log entry 8). -/
def Obligations.IdleEngineAndStuckHost : Prop :=
  (∀ s : State, s.pending = none → s.script = [] → step s = .next s) ∧
  (∀ (s : State) (rest : List Event), s.pending = none → s.script = .engine :: rest →
    step s = .next { s with script := rest }) ∧
  (∀ (s : State) (a : HostAccess) (rest : List Event), s.pending = none → s.script = .access a :: rest →
    a.admitted s.params = false → ∃ f, step s = .fault f) ∧
  (∀ (s : State) (p : Pending) (a : HostAccess) (rest : List Event), s.pending = some p →
    s.script = .access a :: rest → a.admitted s.params = false → ∃ t, step s = .next t ∧ t.busy = false)

/-- Issue (R311): the CMD write's assignments and nothing else; every word is issued; while BUSY = 1 it is dropped. -/
def Obligations.CmdWriteIssues : Prop :=
  ∀ (s : State) (v : Word) (rest : List Event), NextWrite s 0x010 4 v rest →
    (s.busy = false → ∃ t, step s = .next t ∧
      t = { s with script := rest, cmd := t.cmd, pending := t.pending, done := t.done, err := t.err,
                   errcode := t.errcode } ∧
      t.cmd = v ∧ t.pending = some { cw := v, arg := s.arg } ∧ t.busy = true ∧ t.done = false ∧ t.err = false ∧
      t.errcode = 0x00#8 ∧ t.ovr = s.ovr ∧ t.keyv = s.keyv ∧ t.hashv = s.hashv ∧ t.kw = s.kw) ∧
    (s.busy = true → step s = .next { s with script := rest, ovr := true })

/-- An issue followed by the engine's turn is the command run on the state as it stood at issue (R311, R312). The script
that orders the two is the model's choice (log entry 6). -/
def Obligations.IssueThenCompletion : Prop :=
  ∀ (s : State) (v : Word) (i : Instr) (rest : List Event), s.busy = false → NextWrite s 0x010 4 v (.engine :: rest) →
    decode v = .ok i → Host.Core.run Sys2Proof.core 2 s = exec i { s.issue v with script := rest }

/-! ### Results: every command completes, and with what -/

/-- NOP (R150): its word, no state change, completion only, ILLEGAL on any other bit, and the rule's example. -/
def Obligations.NopOnlyCompletes : Prop :=
  decode 0x00000000#32 = .ok .nop ∧
  (∀ w : Word, opcOf w = 0x00#8 → w ≠ 0x00000000#32 → ∃ r, decode w = .error r) ∧
  (∀ s : State, ∃ t, exec .nop s = .next t ∧ SameBlocks s t ∧ SameKeys s t ∧ SameRk s t ∧ SameDelta s t ∧
    SameMem s t ∧ Succeeded s t) ∧
  (∃ t, step (State.reset.withFetchWord 32 0x00000000) = .next t ∧ t.statusWord = 0x00000002#32)

/-- DBL (R140, R152): B[RD] is B[RA] shifted left by one, with 0x87 folded in when the top bit was 1. -/
def Obligations.DblResult : Prop :=
  ∀ (s : State) (rd ra : Reg), ∃ t, exec (.dbl rd ra) s = .next t ∧
    ((s.getB ra).msb = true → WritesBlock rd (((s.getB ra) <<< 1) ^^^ 0x87#128) s t) ∧
    ((s.getB ra).msb = false → WritesBlock rd ((s.getB ra) <<< 1) s t)

/-- XOR (R151). -/
def Obligations.XorResult : Prop :=
  ∀ (s : State) (rd ra rb : Reg), ∃ t, exec (.xor rd ra rb) s = .next t ∧
    WritesBlock rd (s.getB ra ^^^ s.getB rb) s t ∧ (ra = rb → t.getB rd = 0#128)

/-- MULI (R153) with its corner cases n = 0 and n = 1. -/
def Obligations.MuliResult : Prop :=
  ∀ (s : State) (rd ra : Reg), ∃ t, exec (.muli rd ra) s = .next t ∧
    WritesBlock rd (gfMul s.issued.arg[(0 : Fin 4)].toNat (s.getB ra)) s t ∧
    (s.issued.arg[(0 : Fin 4)] = 0#32 → t.getB rd = 0#128) ∧
    (s.issued.arg[(0 : Fin 4)] = 1#32 → t.getB rd = s.getB ra)

/-- AESR (R175, R180): the four steps of a round on B[RA] with the round key B[RB], and the same byte by byte. Column c of
the result is MixColumns of the bytes SBOX[b[r + 4·((c + r) mod 4)]], r = 0..3, XOR the round key's column (R170 to R174,
which the spec takes from general knowledge: log entry 15). -/
def Obligations.AesrResult : Prop :=
  ∀ (s : State) (rd ra rb : Reg), ∃ t, exec (.aesr rd ra rb) s = .next t ∧
    WritesBlock rd (mixColumns (shiftRows (subBytes (s.getB ra))) ^^^ s.getB rb) s t ∧
    (∀ (c : Nat) (a0 a1 a2 a3 : Byte), c < 4 →
      a0 = sbox (byteOf (s.getB ra) (4 * c)) →
      a1 = sbox (byteOf (s.getB ra) (1 + 4 * ((c + 1) % 4))) →
      a2 = sbox (byteOf (s.getB ra) (2 + 4 * ((c + 2) % 4))) →
      a3 = sbox (byteOf (s.getB ra) (3 + 4 * ((c + 3) % 4))) →
      byteOf (t.getB rd) (4 * c) = gf8Double a0 ^^^ gf8Triple a1 ^^^ a2 ^^^ a3 ^^^ byteOf (s.getB rb) (4 * c) ∧
      byteOf (t.getB rd) (4 * c + 1) = a0 ^^^ gf8Double a1 ^^^ gf8Triple a2 ^^^ a3 ^^^ byteOf (s.getB rb) (4 * c + 1) ∧
      byteOf (t.getB rd) (4 * c + 2) = a0 ^^^ a1 ^^^ gf8Double a2 ^^^ gf8Triple a3 ^^^ byteOf (s.getB rb) (4 * c + 2) ∧
      byteOf (t.getB rd) (4 * c + 3) = gf8Triple a0 ^^^ a1 ^^^ a2 ^^^ gf8Double a3 ^^^ byteOf (s.getB rb) (4 * c + 3))

/-- AES4 (R177, an inference the spec marks as its own: "derived: from rule R175"; R181): four rounds under RK[0..3], no
key needed. -/
def Obligations.AesFourResult : Prop :=
  ∀ (s : State) (rd ra : Reg), ∃ t, exec (.aes4 rd ra) s = .next t ∧
    WritesBlock rd
      (aesRound (aesRound (aesRound (aesRound (s.getB ra) (s.getRk 0)) (s.getRk 1)) (s.getRk 2)) (s.getRk 3)) s t

/-- LDRK (R182): one register or all four; ALL = 1 with F not 0 is ILLEGAL. -/
def Obligations.LdrkResult : Prop :=
  ∀ (s : State) (ra : Reg) (f : Fin 4) (all : Bool),
    ((all = false ∨ f = 0) → ∃ t, exec (.ldrk ra f all) s = .next t ∧
      (all = true → ∀ k, t.getRk k = s.getB ra) ∧
      (all = false → t.getRk f = s.getB ra ∧ ∀ k, k ≠ f → t.getRk k = s.getRk k) ∧
      SameBlocks s t ∧ SameKeys s t ∧ SameDelta s t ∧ SameMem s t ∧ Succeeded s t) ∧
    (all = true → f ≠ 0 → ∃ t, exec (.ldrk ra f all) s = .next t ∧ Failed .illegal s t)

/-- LDKEY (R34, R183): the key F names takes B[RA] and its KW bit is set; the others keep theirs; F = 3 is ILLEGAL. -/
def Obligations.LdkeyResult : Prop :=
  ∀ (s : State) (ra : Reg),
    (∃ t, exec (.ldkey ra 0) s = .next t ∧ t.ki = s.getB ra ∧ t.kj = s.kj ∧ t.kl = s.kl ∧ t.kw = s.kw ||| 0b001#3 ∧
      SameBlocks s t ∧ SameRk s t ∧ SameDelta s t ∧ SameMem s t ∧ Succeeded s t) ∧
    (∃ t, exec (.ldkey ra 1) s = .next t ∧ t.kj = s.getB ra ∧ t.ki = s.ki ∧ t.kl = s.kl ∧ t.kw = s.kw ||| 0b010#3 ∧
      SameBlocks s t ∧ SameRk s t ∧ SameDelta s t ∧ SameMem s t ∧ Succeeded s t) ∧
    (∃ t, exec (.ldkey ra 2) s = .next t ∧ t.kl = s.getB ra ∧ t.ki = s.ki ∧ t.kj = s.kj ∧ t.kw = s.kw ||| 0b100#3 ∧
      SameBlocks s t ∧ SameRk s t ∧ SameDelta s t ∧ SameMem s t ∧ Succeeded s t) ∧
    (∃ t, exec (.ldkey ra 3) s = .next t ∧ Failed .illegal s t)

/-- The conditions under which OFS and E execute (R202, R210, R211). -/
def Sys2Proof.Certificates.LegalTweak (s : State) : Prop :=
  -1 ≤ s.issued.arg[(1 : Fin 4)].toInt ∧
    ¬((s.issued.arg[(1 : Fin 4)].toInt = 1 ∨ s.issued.arg[(1 : Fin 4)].toInt = 2) ∧ s.issued.arg[(0 : Fin 4)] = 0#32)

/-- OFS (R201, R210): with KEYV = 1 and a legal tweak, B[RD] is Ofs(i, j) for i = sext(ARG1), j = zext(ARG0), line by
line of R201. -/
def Obligations.OfsResult : Prop :=
  ∀ (s : State) (rd : Reg) (i : Int) (j : Nat), s.kw = 0b111#3 → LegalTweak s →
    i = s.issued.arg[(1 : Fin 4)].toInt → j = s.issued.arg[(0 : Fin 4)].toNat → ∃ t, exec (.ofs rd) s = .next t ∧
    (i = -1 ∨ i = 0 → WritesBlock rd (gfMul j s.kj) s t) ∧
    (i = 1 ∨ i = 2 → WritesBlock rd (gfMul (j % 8) s.kj ^^^ pow2 ((j - 1) / 8) s.kl) s t) ∧
    (3 ≤ i → j = 0 → WritesBlock rd (gfMul (8 * (i - 2)).toNat s.kj) s t) ∧
    (3 ≤ i → 1 ≤ j →
      WritesBlock rd (gfMul (8 * (i - 2)).toNat s.kj ^^^ gfMul (j % 8) s.kj ^^^ pow2 ((j - 1) / 8) s.kl) s t)

/-- E (R178, R200, R206, R211): for i = -1 the ten rounds of AES10 under I, L, J, I, L, J, I, L, J, I, for i ≥ 0 AES4 under
Sched(i), on B[RA] XOR Ofs(i, j). R178's rounds are an inference the spec marks as its own ("derived: from rule R175"). -/
def Obligations.TweakableCipherResult : Prop :=
  ∀ (s : State) (rd ra : Reg), s.kw = 0b111#3 → LegalTweak s → ∃ t, exec (.e rd ra) s = .next t ∧
    (s.issued.arg[(1 : Fin 4)].toInt = -1 →
      WritesBlock rd
        (aesRound (aesRound (aesRound (aesRound (aesRound (aesRound (aesRound (aesRound (aesRound (aesRound
          (s.getB ra ^^^ gfMul s.issued.arg[(0 : Fin 4)].toNat s.kj)
          s.ki) s.kl) s.kj) s.ki) s.kl) s.kj) s.ki) s.kl) s.kj) s.ki) s t) ∧
    (0 ≤ s.issued.arg[(1 : Fin 4)].toInt → s.issued.arg[(1 : Fin 4)].toInt < 3 →
      WritesBlock rd (aes4 s.kj s.kl s.ki s.kj (s.getB ra ^^^
        ofs { i := s.ki, j := s.kj, l := s.kl } s.issued.arg[(1 : Fin 4)].toInt
          s.issued.arg[(0 : Fin 4)].toNat)) s t) ∧
    (3 ≤ s.issued.arg[(1 : Fin 4)].toInt →
      WritesBlock rd (aes4 s.ki s.kj s.kl s.ki (s.getB ra ^^^
        ofs { i := s.ki, j := s.kj, l := s.kl } s.issued.arg[(1 : Fin 4)].toInt
          s.issued.arg[(0 : Fin 4)].toNat)) s t)

/-- LDD (R156): DELTA takes B[RA] and HASHV is set. -/
def Obligations.LddResult : Prop :=
  ∀ (s : State) (ra : Reg), ∃ t, exec (.ldd ra) s = .next t ∧ WritesDelta (s.getB ra) s t

/-- STD (R157): B[RD] takes DELTA, whatever HASHV is. -/
def Obligations.StdResult : Prop :=
  ∀ (s : State) (rd : Reg), ∃ t, exec (.std rd) s = .next t ∧ WritesBlock rd s.delta s t

/-- LDB (R81, R154): byte k of B[RD] is DMEM[a + k] for a = zext(ARG0); RANGE when a + 16 > DMEM_SIZE. -/
def Obligations.LdbResult : Prop :=
  ∀ (s : State) (rd : Reg),
    (s.issued.arg[(0 : Fin 4)].toNat + 16 ≤ s.params.dmemSize → ∃ t x, exec (.ldb rd) s = .next t ∧
      (∀ k < 16, byteOf x k = s.readByte (s.issued.arg[(0 : Fin 4)].toNat + k)) ∧ WritesBlock rd x s t) ∧
    (s.issued.arg[(0 : Fin 4)].toNat + 16 > s.params.dmemSize → ∃ t, exec (.ldb rd) s = .next t ∧ Failed .range s t)

/-- STB (R81, R155): DMEM[a + k] takes byte k of B[RA], every other byte stays; RANGE when a + 16 > DMEM_SIZE. -/
def Obligations.StbResult : Prop :=
  ∀ (s : State) (ra : Reg),
    (s.issued.arg[(0 : Fin 4)].toNat + 16 ≤ s.params.dmemSize → ∃ t, exec (.stb ra) s = .next t ∧
      (∀ k < 16, t.readByte (s.issued.arg[(0 : Fin 4)].toNat + k) = byteOf (s.getB ra) k) ∧
      SameMemOutside s.issued.arg[(0 : Fin 4)].toNat 16 s t ∧
      SameBlocks s t ∧ SameKeys s t ∧ SameRk s t ∧ SameDelta s t ∧ Succeeded s t) ∧
    (s.issued.arg[(0 : Fin 4)].toNat + 16 > s.params.dmemSize → ∃ t, exec (.stb ra) s = .next t ∧ Failed .range s t)

/-- ZERO (R160): all blocks, keys, RK, DELTA, KW and HASHV are 0; DMEM, ARG, CTRL, CMD and ERRCMD are as before. -/
def Obligations.ZeroResult : Prop :=
  ∀ s : State, ∃ t, exec .zero s = .next t ∧ (∀ n, t.getB n = 0#128) ∧ t.ki = 0#128 ∧ t.kj = 0#128 ∧ t.kl = 0#128 ∧
    t.kw = 0b000#3 ∧ t.keyv = false ∧ (∀ k, t.getRk k = 0#128) ∧ t.delta = 0#128 ∧ t.hashv = false ∧
    SameMem s t ∧ Succeeded s t

/-- HINIT (R230, R235): DELTA is E(3, 1, to_block(ARG0)), τ used as is; without keys, NOKEY. -/
def Obligations.HinitResult : Prop :=
  ∀ s : State,
    (s.kw = 0b111#3 → ∃ t, exec .hinit s = .next t ∧
      WritesDelta (cipherE { i := s.ki, j := s.kj, l := s.kl } 3 1 (s.issued.arg[(0 : Fin 4)].setWidth 128)) s t) ∧
    (s.kw ≠ 0b111#3 → ∃ t, exec .hinit s = .next t ∧ Failed .nokey s t)

/-- HABS (R231, R232, R236): with keys, a hash, i ≥ 3 and the source in range, DELTA is XORed with Habs(i, source). So on
the τ block's DELTA (HINIT) the nonce under i = 4 gives Hash(τ, N, ()), and on Hash(τ, N, A) one more AD element under
i = 5 + |A| gives the Hash with that element. -/
def Obligations.HabsResult : Prop :=
  ∀ s : State, s.kw = 0b111#3 → s.hashv = true → 3 ≤ s.issued.arg[(2 : Fin 4)].toNat →
    s.issued.arg[(0 : Fin 4)].toNat + s.issued.arg[(1 : Fin 4)].toNat ≤ s.params.dmemSize →
    ∃ t, exec .habs s = .next t ∧
      WritesDelta (s.delta ^^^ habs { i := s.ki, j := s.kj, l := s.kl } (s.issued.arg[(2 : Fin 4)].toNat : Int)
        (s.memRead s.issued.arg[(0 : Fin 4)].toNat s.issued.arg[(1 : Fin 4)].toNat)) s t ∧
      (∀ tau : Word, s.issued.arg[(2 : Fin 4)].toNat = 4 →
        s.delta = cipherE { i := s.ki, j := s.kj, l := s.kl } 3 1 (tau.setWidth 128) →
        t.delta = aezHash { i := s.ki, j := s.kj, l := s.kl } tau
          (s.memRead s.issued.arg[(0 : Fin 4)].toNat s.issued.arg[(1 : Fin 4)].toNat) []) ∧
      (∀ (tau : Word) (nonce : List Byte) (ad : List (List Byte)),
        s.issued.arg[(2 : Fin 4)].toNat = 5 + ad.length →
        s.delta = aezHash { i := s.ki, j := s.kj, l := s.kl } tau nonce ad →
        t.delta = aezHash { i := s.ki, j := s.kj, l := s.kl } tau nonce
          (ad ++ [s.memRead s.issued.arg[(0 : Fin 4)].toNat s.issued.arg[(1 : Fin 4)].toNat]))

/-- PRF (R250, R252): with keys, a hash and the destination in range, the n bytes at ARG0 are Prf(DELTA, n). -/
def Obligations.PrfResult : Prop :=
  ∀ s : State, s.kw = 0b111#3 → s.hashv = true →
    s.issued.arg[(0 : Fin 4)].toNat + s.issued.arg[(1 : Fin 4)].toNat ≤ s.params.dmemSize →
    (prf { i := s.ki, j := s.kj, l := s.kl } s.delta s.issued.arg[(1 : Fin 4)].toNat).length
      = s.issued.arg[(1 : Fin 4)].toNat ∧
    ∃ t, exec .prf s = .next t ∧
      WritesMem s.issued.arg[(0 : Fin 4)].toNat
        (prf { i := s.ki, j := s.kj, l := s.kl } s.delta s.issued.arg[(1 : Fin 4)].toNat) s t

/-- The conditions under which ENC and DEC execute (R272, R276, R277, R303). -/
structure Sys2Proof.Certificates.CoreReady (s : State) : Prop where
  keyv : s.kw = 0b111#3
  hashv : s.hashv = true
  len : 32 ≤ s.issued.arg[(2 : Fin 4)].toNat
  src : s.issued.arg[(0 : Fin 4)].toNat + s.issued.arg[(2 : Fin 4)].toNat ≤ s.params.dmemSize
  dst : s.issued.arg[(1 : Fin 4)].toNat + s.issued.arg[(2 : Fin 4)].toNat ≤ s.params.dmemSize
  apart : s.issued.arg[(0 : Fin 4)] = s.issued.arg[(1 : Fin 4)] ∨
    s.issued.arg[(0 : Fin 4)].toNat + s.issued.arg[(2 : Fin 4)].toNat ≤ s.issued.arg[(1 : Fin 4)].toNat ∨
    s.issued.arg[(1 : Fin 4)].toNat + s.issued.arg[(2 : Fin 4)].toNat ≤ s.issued.arg[(0 : Fin 4)].toNat

/-- ENC (R275, R276): the m bytes at dst become Core(P, 0, DELTA) of the m bytes P at src, and nothing else changes. -/
def Obligations.EncResult : Prop :=
  ∀ s : State, CoreReady s → ∃ out, exec .enc s = .next out ∧
    (wideBlock { i := s.ki, j := s.kj, l := s.kl } 0 s.delta
      (s.memRead s.issued.arg[(0 : Fin 4)].toNat s.issued.arg[(2 : Fin 4)].toNat)).length
        = s.issued.arg[(2 : Fin 4)].toNat ∧
    WritesMem s.issued.arg[(1 : Fin 4)].toNat
      (wideBlock { i := s.ki, j := s.kj, l := s.kl } 0 s.delta
        (s.memRead s.issued.arg[(0 : Fin 4)].toNat s.issued.arg[(2 : Fin 4)].toNat)) s out

/-- DEC (R275, R277): as ENC with d = 1. -/
def Obligations.DecResult : Prop :=
  ∀ s : State, CoreReady s → ∃ out, exec .dec s = .next out ∧
    (wideBlock { i := s.ki, j := s.kj, l := s.kl } 1 s.delta
      (s.memRead s.issued.arg[(0 : Fin 4)].toNat s.issued.arg[(2 : Fin 4)].toNat)).length
        = s.issued.arg[(2 : Fin 4)].toNat ∧
    WritesMem s.issued.arg[(1 : Fin 4)].toNat
      (wideBlock { i := s.ki, j := s.kj, l := s.kl } 1 s.delta
        (s.memRead s.issued.arg[(0 : Fin 4)].toNat s.issued.arg[(2 : Fin 4)].toNat)) s out

/-! ### Errors -/

/-- OFS and E (R202, R210, R211, R303): NOKEY first, then TWEAK for i < -1 or i in (1, 2) with j = 0. -/
def Obligations.TweakCommandErrors : Prop :=
  ∀ (s : State) (i : Instr), (∃ rd, i = .ofs rd) ∨ (∃ rd ra, i = .e rd ra) →
    (s.kw ≠ 0b111#3 → ∃ t, exec i s = .next t ∧ Failed .nokey s t) ∧
    (s.kw = 0b111#3 → ¬LegalTweak s → ∃ t, exec i s = .next t ∧ Failed .tweak s t)

/-- HABS and PRF (R236, R252, R303): each error in the fixed order, the first that holds. -/
def Obligations.HashAndPrfErrors : Prop :=
  (∀ s : State, s.kw ≠ 0b111#3 → ∃ t, exec .habs s = .next t ∧ Failed .nokey s t) ∧
  (∀ s : State, s.kw = 0b111#3 → s.hashv = false → ∃ t, exec .habs s = .next t ∧ Failed .nohash s t) ∧
  (∀ s : State, s.kw = 0b111#3 → s.hashv = true → s.issued.arg[(2 : Fin 4)].toNat < 3 →
    ∃ t, exec .habs s = .next t ∧ Failed .tweak s t) ∧
  (∀ s : State, s.kw = 0b111#3 → s.hashv = true → 3 ≤ s.issued.arg[(2 : Fin 4)].toNat →
    s.issued.arg[(0 : Fin 4)].toNat + s.issued.arg[(1 : Fin 4)].toNat > s.params.dmemSize →
    ∃ t, exec .habs s = .next t ∧ Failed .range s t) ∧
  (∀ s : State, s.kw ≠ 0b111#3 → ∃ t, exec .prf s = .next t ∧ Failed .nokey s t) ∧
  (∀ s : State, s.kw = 0b111#3 → s.hashv = false → ∃ t, exec .prf s = .next t ∧ Failed .nohash s t) ∧
  (∀ s : State, s.kw = 0b111#3 → s.hashv = true →
    s.issued.arg[(0 : Fin 4)].toNat + s.issued.arg[(1 : Fin 4)].toNat > s.params.dmemSize →
    ∃ t, exec .prf s = .next t ∧ Failed .range s t)

/-- ENC and DEC (R272, R276, R277, R303): NOKEY, NOHASH, LEN, RANGE, OVERLAP, the first that holds. -/
def Obligations.CoreErrors : Prop :=
  ∀ (s : State) (i : Instr), i = .enc ∨ i = .dec →
    (s.kw ≠ 0b111#3 → ∃ t, exec i s = .next t ∧ Failed .nokey s t) ∧
    (s.kw = 0b111#3 → s.hashv = false → ∃ t, exec i s = .next t ∧ Failed .nohash s t) ∧
    (s.kw = 0b111#3 → s.hashv = true → s.issued.arg[(2 : Fin 4)].toNat < 32 →
      ∃ t, exec i s = .next t ∧ Failed .len s t) ∧
    (s.kw = 0b111#3 → s.hashv = true → 32 ≤ s.issued.arg[(2 : Fin 4)].toNat →
      (s.issued.arg[(0 : Fin 4)].toNat + s.issued.arg[(2 : Fin 4)].toNat > s.params.dmemSize ∨
        s.issued.arg[(1 : Fin 4)].toNat + s.issued.arg[(2 : Fin 4)].toNat > s.params.dmemSize) →
      ∃ t, exec i s = .next t ∧ Failed .range s t) ∧
    (s.kw = 0b111#3 → s.hashv = true → 32 ≤ s.issued.arg[(2 : Fin 4)].toNat →
      s.issued.arg[(0 : Fin 4)].toNat + s.issued.arg[(2 : Fin 4)].toNat ≤ s.params.dmemSize →
      s.issued.arg[(1 : Fin 4)].toNat + s.issued.arg[(2 : Fin 4)].toNat ≤ s.params.dmemSize →
      s.issued.arg[(0 : Fin 4)] ≠ s.issued.arg[(1 : Fin 4)] →
      s.issued.arg[(0 : Fin 4)].toNat < s.issued.arg[(1 : Fin 4)].toNat + s.issued.arg[(2 : Fin 4)].toNat →
      s.issued.arg[(1 : Fin 4)].toNat < s.issued.arg[(0 : Fin 4)].toNat + s.issued.arg[(2 : Fin 4)].toNat →
      ∃ t, exec i s = .next t ∧ Failed .overlap s t)

/-- No command ever stops the machine: in every state it completes, with success or with one error (R300, R312, R317). -/
def Obligations.EveryCommandCompletes : Prop :=
  ∀ (i : Instr) (s : State), ∃ t, exec i s = .next t ∧ t.busy = false ∧ t.done = true ∧
    (Succeeded s t ∨ ∃ e, Failed e s t)

/-- A command raises only the errors the table of R300 lists for it. -/
def Obligations.OnlyListedErrors : Prop :=
  ∀ (i : Instr) (s t : State), exec i s = .next t → t.errcode = 0x00#8 ∨ ∃ e ∈ errorsOf i, t.errcode = e.code

/-- No partial effects (R304): a command, legal or not, that completes with an error, on any path to its completion,
changes only BUSY, DONE, ERR, ERRCODE and ERRCMD, and so IRQ; the step takes its own move off the script. -/
def Obligations.NoPartialEffects : Prop :=
  ∀ (s t : State) (rest : List Event), s.busy = true → EngineNext s rest → step s = .next t → t.errcode ≠ 0x00#8 →
    t = { s with script := rest, pending := t.pending, done := t.done, err := t.err, errcode := t.errcode,
                 errcmd := t.errcmd } ∧
    t.irq = (s.irqEn && t.done)

/-- Which commands write which state, over the whole opcode map (R32 to R38, R80): a command off the list of a register
leaves it as it was, and no command writes ARG, CMD, CTRL or OVR. -/
def Obligations.WhoWritesWhat : Prop :=
  ∀ (i : Instr) (s t : State), exec i s = .next t → Kept s t ∧
    (writesBlocks i = false → SameBlocks s t) ∧ (writesKeys i = false → SameKeys s t) ∧
    (writesRk i = false → SameRk s t) ∧ (writesDelta i = false → SameDelta s t) ∧
    (writesDmem i = false → SameMem s t)

/-- The engine uses the operands sampled at issue, not the ARG registers as they stand (R114, R342). -/
def Obligations.OperandsAreSampled : Prop :=
  ∀ (i : Instr) (s : State) (p : Pending) (x : Vector Word 4), s.pending = some p →
    ∃ t, exec i s = .next t ∧ exec i { s with arg := x } = .next { t with arg := x }

/-! ### The register window -/

/-- ID and VERSION always read their constants, BUSY or not, and ignore host writes (R40, R41). -/
def Obligations.IdAndVersionReadConstants : Prop :=
  ∀ (s : State) (rest : List Event) (v : Word),
    (NextRead s 0x000 4 rest → step s = .next { s with script := rest, rdata := 0x41455A43#32 }) ∧
    (NextRead s 0x004 4 rest → step s = .next { s with script := rest, rdata := 0x00010000#32 }) ∧
    (NextWrite s 0x000 4 v rest → step s = .next { s with script := rest }) ∧
    (NextWrite s 0x004 4 v rest → step s = .next { s with script := rest })

/-- Reserved offsets read 0 and ignore writes; reserved and read-only writes never set OVR, BUSY or not; KI, KJ, KL and
RK read 0 (R47). -/
def Obligations.ReservedAndWriteOnlyOffsets : Prop :=
  ∀ (s : State) (rest : List Event) (off : Nat) (v : Word),
    (ReservedOffset s.params off → NextRead s off 4 rest →
      step s = .next { s with script := rest, rdata := 0#32 }) ∧
    (ReservedOffset s.params off ∨ off = 0x000 ∨ off = 0x004 ∨ off = 0x014 → NextWrite s off 4 v rest →
      step s = .next { s with script := rest }) ∧
    (off % 4 = 0 → ((0x200 ≤ off ∧ off < 0x230) ∨ (0x240 ≤ off ∧ off < 0x280)) → NextRead s off 4 rest →
      step s = .next { s with script := rest, rdata := 0#32 })

/-- Writes while BUSY = 1 (R340): dropped with OVR <- 1 and nothing else, except CTRL (SRST too) and STATUS. -/
def Obligations.BusyWritesAreDropped : Prop :=
  ∀ (s : State) (rest : List Event) (v : Word), s.busy = true →
    (∀ off, DroppedOffset off → NextWrite s off 4 v rest →
      step s = .next { s with script := rest, ovr := true }) ∧
    (∀ a n, DmemAccess s a n → NextWrite s (0x100000 + a) n v rest →
      step s = .next { s with script := rest, ovr := true }) ∧
    (NextWrite s 0x008 4 v rest → v.getLsbD 1 = false →
      step s = .next { s with script := rest, irqEn := v.getLsbD 0 }) ∧
    (NextWrite s 0x008 4 v rest → v.getLsbD 1 = true → ∃ t, step s = .next t ∧ RegistersAtReset t) ∧
    (NextWrite s 0x00C 4 v rest → ∃ t, step s = .next t ∧ t.busy = true ∧ t.ovr = (s.ovr && !v.getLsbD 3))

/-- Reads while BUSY = 1 (R92): B, DELTA and DMEM give a draw, a fresh one each. How the draws are numbered, and that a
narrow read is a whole draw, is the model's choice (log entry 4). CTRL, STATUS, CMD, ERRCMD and ARG give their values,
busy or not, and a read changes nothing else (R37 to R39, R42, R43, R87). -/
def Obligations.BusyReadsAreDraws : Prop :=
  ∀ (s : State) (rest : List Event),
    (s.busy = true → ∀ off, off % 4 = 0 → 0x100 ≤ off → off < 0x190 → NextRead s off 4 rest →
      step s = .next { s with script := rest, rdata := Config.busyWord s.draws, draws := s.draws + 1 }) ∧
    (s.busy = true → ∀ a n, DmemAccess s a n → NextRead s (0x100000 + a) n rest →
      step s = .next { s with script := rest, rdata := Config.busyWord s.draws, draws := s.draws + 1 }) ∧
    (NextRead s 0x008 4 rest → step s = .next { s with script := rest, rdata := s.ctrlWord }) ∧
    (NextRead s 0x00C 4 rest → step s = .next { s with script := rest, rdata := s.statusWord }) ∧
    (NextRead s 0x010 4 rest → step s = .next { s with script := rest, rdata := s.cmd }) ∧
    (NextRead s 0x014 4 rest → step s = .next { s with script := rest, rdata := s.errcmd }) ∧
    (∀ n : Fin 4, NextRead s (0x020 + 4 * n.val) 4 rest →
      step s = .next { s with script := rest, rdata := s.arg[n] })

/-- STATUS (R43, R87): a host read returns the STATUS word, busy or not; each bit of it; and what a host write clears. -/
def Obligations.StatusBitsAndClearing : Prop :=
  (∀ s : State, s.statusWord.getLsbD 0 = s.busy ∧ s.statusWord.getLsbD 1 = s.done ∧ s.statusWord.getLsbD 2 = s.err ∧
    s.statusWord.getLsbD 3 = s.ovr ∧ s.statusWord.getLsbD 4 = decide (s.kw = 0b111#3) ∧
    s.statusWord.getLsbD 5 = s.hashv ∧ s.statusWord.extractLsb' 6 2 = 0#2 ∧
    s.statusWord.extractLsb' 8 8 = s.errcode ∧ s.statusWord.extractLsb' 16 3 = s.kw ∧
    s.statusWord.extractLsb' 19 13 = 0#13) ∧
  (∀ (s : State) (rest : List Event), NextRead s 0x00C 4 rest →
    step s = .next { s with script := rest, rdata := s.statusWord }) ∧
  (∀ (s : State) (v : Word) (rest : List Event), NextWrite s 0x00C 4 v rest →
    step s = .next { s with
      script := rest,
      done := if v.getLsbD 1 then false else s.done,
      err := if v.getLsbD 2 then false else s.err,
      ovr := if v.getLsbD 3 then false else s.ovr,
      errcode := if v.getLsbD 2 then 0x00#8 else s.errcode })

/-- CTRL (R42, R87): a host read returns the CTRL word; only IRQ_EN is stored and read, SRST resets, reserved bits are ignored, BUSY or not, and OVR never set. -/
def Obligations.CtrlWrites : Prop :=
  ∀ (s : State) (v : Word) (rest : List Event),
    (s.ctrlWord.getLsbD 0 = s.irqEn ∧ ∀ k, 1 ≤ k → s.ctrlWord.getLsbD k = false) ∧
    (NextRead s 0x008 4 rest → step s = .next { s with script := rest, rdata := s.ctrlWord }) ∧
    (NextWrite s 0x008 4 v rest → v.getLsbD 1 = false →
      step s = .next { s with script := rest, irqEn := v.getLsbD 0 }) ∧
    (NextWrite s 0x008 4 v rest → v.getLsbD 1 = true → ∃ t, step s = .next t ∧ RegistersAtReset t)

/-- IRQ (R310): the level IRQ_EN and DONE; its one source is completion, with or without error (no host access sets
DONE); cleared by DONE's W1C, by IRQ_EN <- 0, by an issue and by reset. -/
def Obligations.InterruptLevel : Prop :=
  (∀ s : State, s.irq = (s.ctrlWord.getLsbD 0 && s.statusWord.getLsbD 1)) ∧
  (∀ (s t : State) (rest : List Event), s.busy = true → EngineNext s rest → step s = .next t → t.irq = s.irqEn) ∧
  (∀ (s t : State) (a : HostAccess) (rest : List Event), s.script = .access a :: rest →
    a.admitted s.params = true → step s = .next t → t.done = true → s.done = true) ∧
  (∀ (s : State) (v : Word) (rest : List Event), NextWrite s 0x00C 4 v rest → v.getLsbD 1 = true →
    ∃ t, step s = .next t ∧ t.irq = false) ∧
  (∀ (s : State) (v : Word) (rest : List Event), NextWrite s 0x008 4 v rest → v.getLsbD 0 = false →
    ∃ t, step s = .next t ∧ t.irq = false) ∧
  (∀ (s : State) (v : Word) (rest : List Event), NextWrite s 0x010 4 v rest → s.busy = false →
    ∃ t, step s = .next t ∧ t.irq = false) ∧
  (∀ s : State, s.hardReset.irq = false ∧ s.softReset.irq = false)

/-- ARG and the words of B, DELTA, KI, KJ, KL and RK while idle (R33 to R37, R46): a word write replaces bytes 4w..4w+3,
little-endian, and no others; DELTA sets HASHV, a key its KW bit; B, DELTA and ARG read back.
The other registers' reads are in `BusyReadsAreDraws`, for every state. -/
def Obligations.RegisterWordAccess : Prop :=
  ∀ (s : State) (v : Word) (rest : List Event) (w : Fin 4), s.busy = false →
    (∀ n : Fin 4, NextWrite s (0x020 + 4 * n.val) 4 v rest →
      step s = .next { s with script := rest, arg := s.arg.set n v }) ∧
    (∀ n : Reg, NextWrite s (0x100 + 16 * n.val + 4 * w.val) 4 v rest → ∃ x,
      (∀ k < 16, byteOf x k = if k / 4 = w.val then v.extractLsb' (8 * (k % 4)) 8 else byteOf (s.getB n) k) ∧
      step s = .next { s with script := rest, b := s.b.set n x }) ∧
    (NextWrite s (0x180 + 4 * w.val) 4 v rest → ∃ x,
      (∀ k < 16, byteOf x k = if k / 4 = w.val then v.extractLsb' (8 * (k % 4)) 8 else byteOf s.delta k) ∧
      step s = .next { s with script := rest, delta := x, hashv := true }) ∧
    (NextWrite s (0x200 + 4 * w.val) 4 v rest → ∃ x,
      (∀ k < 16, byteOf x k = if k / 4 = w.val then v.extractLsb' (8 * (k % 4)) 8 else byteOf s.ki k) ∧
      step s = .next { s with script := rest, ki := x, kw := s.kw ||| 0b001#3 }) ∧
    (NextWrite s (0x210 + 4 * w.val) 4 v rest → ∃ x,
      (∀ k < 16, byteOf x k = if k / 4 = w.val then v.extractLsb' (8 * (k % 4)) 8 else byteOf s.kj k) ∧
      step s = .next { s with script := rest, kj := x, kw := s.kw ||| 0b010#3 }) ∧
    (NextWrite s (0x220 + 4 * w.val) 4 v rest → ∃ x,
      (∀ k < 16, byteOf x k = if k / 4 = w.val then v.extractLsb' (8 * (k % 4)) 8 else byteOf s.kl k) ∧
      step s = .next { s with script := rest, kl := x, kw := s.kw ||| 0b100#3 }) ∧
    (∀ n : Fin 4, NextWrite s (0x240 + 16 * n.val + 4 * w.val) 4 v rest → ∃ x,
      (∀ k < 16, byteOf x k = if k / 4 = w.val then v.extractLsb' (8 * (k % 4)) 8 else byteOf (s.getRk n) k) ∧
      step s = .next { s with script := rest, rk := s.rk.set n x }) ∧
    (∀ n : Fin 4, NextRead s (0x020 + 4 * n.val) 4 rest →
      step s = .next { s with script := rest, rdata := s.arg[n] }) ∧
    (∀ n : Reg, NextRead s (0x100 + 16 * n.val + 4 * w.val) 4 rest → ∃ y : Word,
      (∀ k < 4, y.extractLsb' (8 * k) 8 = byteOf (s.getB n) (4 * w.val + k)) ∧
      step s = .next { s with script := rest, rdata := y }) ∧
    (NextRead s (0x180 + 4 * w.val) 4 rest → ∃ y : Word,
      (∀ k < 4, y.extractLsb' (8 * k) 8 = byteOf s.delta (4 * w.val + k)) ∧
      step s = .next { s with script := rest, rdata := y })

/-- Host accesses to DMEM while idle (R82, R86, R87): n bytes little-endian, only those bytes written, reads change
nothing. Two points are the model's choice and no words of R82: that the byte of an 8-bit access stands in bits 7:0 of the
word (log entry 10, DEDUCED), and that the bits above a narrow read are 0 (log entry 19, DESIGN CHOICE). -/
def Obligations.DmemHostAccess : Prop :=
  ∀ (s : State) (a n : Nat) (v : Word) (rest : List Event), s.busy = false → DmemAccess s a n →
    (NextWrite s (0x100000 + a) n v rest → ∃ t, step s = .next t ∧
      (∀ k < n, t.readByte (a + k) = v.extractLsb' (8 * k) 8) ∧ SameMemOutside a n s t ∧
      t = { s with script := rest, dmem := t.dmem }) ∧
    (NextRead s (0x100000 + a) n rest → ∃ y : Word,
      (∀ k < n, y.extractLsb' (8 * k) 8 = s.readByte (a + k)) ∧
      (∀ k, n ≤ k → k < 4 → y.extractLsb' (8 * k) 8 = 0#8) ∧
      step s = .next { s with script := rest, rdata := y })

/-! ### Reset -/

/-- The reset values of R51, at hard reset and at soft reset: every register and flag, no pending command, IRQ
deasserted, ID and VERSION at their constants; hard reset leaves each DMEM byte a draw (R330), soft reset while idle
leaves DMEM as it was (R331). How the draws are indexed is the model's choice (log entries 3 and 13). -/
def Obligations.ResetValues : Prop :=
  RegistersAtReset State.reset ∧
  (∀ (s : State) (rest : List Event), s.script = .hardReset :: rest → ∃ t, step s = .next t ∧ RegistersAtReset t ∧
    (∀ a, t.readByte a = Config.resetByte (s.epoch + 1) a) ∧ t.params = s.params) ∧
  (∀ (s : State) (v : Word) (rest : List Event), NextWrite s 0x008 4 v rest → v.getLsbD 1 = true →
    ∃ t, step s = .next t ∧ RegistersAtReset t ∧ t.params = s.params ∧ (s.busy = false → SameMem s t)) ∧
  (∀ s : State, s.readTarget .id 4 = 0x41455A43#32 ∧ s.readTarget .version 4 = 0x00010000#32)

/-- Soft reset over a pending command (R306, R331): the command never completes, each byte of its write range inside DMEM
becomes a fresh draw, and every other byte stays. How the draws are numbered is the model's choice (log entry 5). -/
def Obligations.SoftResetAborts : Prop :=
  ∀ (s : State) (p : Pending) (i : Instr) (v : Word) (rest : List Event), s.pending = some p → decode p.cw = .ok i →
    NextWrite s 0x008 4 v rest → v.getLsbD 1 = true → ∃ t a n, step s = .next t ∧ RegistersAtReset t ∧
      ((∃ ra, i = .stb ra) → a = p.arg[(0 : Fin 4)].toNat ∧ n = 16) ∧
      (i = .prf → a = p.arg[(0 : Fin 4)].toNat ∧ n = p.arg[(1 : Fin 4)].toNat) ∧
      (i = .enc ∨ i = .dec → a = p.arg[(1 : Fin 4)].toNat ∧ n = p.arg[(2 : Fin 4)].toNat) ∧
      (writesDmem i = false → n = 0) ∧
      SameMemOutside a (min (a + n) s.params.dmemSize - a) s t ∧
      (∀ x, a ≤ x → x < a + n → x < s.params.dmemSize → t.readByte x = Config.abortByte (s.draws + (x - a)))

/-! ### The arithmetic and the ciphers -/

/-- The four laws of R144, an inference the spec marks as its own ("derived: from rule R140 and rule R141"). -/
def Obligations.DoublingLaws : Prop :=
  (∀ a b : Block, dbl (a ^^^ b) = dbl a ^^^ dbl b) ∧
  (∀ (a b : Nat) (x : Block), gfMul a x ^^^ gfMul b x = gfMul (a ^^^ b) x) ∧
  (∀ (n : Nat) (x y : Block), gfMul n (x ^^^ y) = gfMul n x ^^^ gfMul n y) ∧
  (∀ (a r : Nat) (x : Block), r < 8 → gfMul (8 * a + r) x = gfMul a (pow2 3 x) ^^^ gfMul r x)

/-- The consequences of the schedule and the offsets that R203 lists: tweak indexes 1 and 2 name the same permutation,
-1 and 0 share their offsets, E(0, 0) has no offset, and the two multiples of J add up for i ≥ 3. The spec
marks them as its own inference ("derived: from rule R200 and rule R201"). -/
def Obligations.TweakConsequences : Prop :=
  ∀ k : Subkeys,
    (∀ j, 1 ≤ j → ofs k 1 j = ofs k 2 j) ∧ sched k 1 = sched k 2 ∧
    (∀ j x, 1 ≤ j → cipherE k 1 j x = cipherE k 2 j x) ∧
    (∀ j, ofs k (-1) j = ofs k 0 j) ∧
    ofs k 0 0 = 0#128 ∧ (∀ x, cipherE k 0 0 x = aes4 k.j k.l k.i k.j x) ∧
    (∀ (i : Int) (j : Nat), 3 ≤ i → 1 ≤ j →
      gfMul (8 * (i - 2)).toNat k.j ^^^ gfMul (j % 8) k.j = gfMul ((8 * (i - 2)).toNat + j % 8) k.j)

/-- For every legal tweak and every subkeys, E(i, j, ·) is a permutation of the blocks (R207, an inference the
spec marks as its own: "derived: from rule R206, since XOR with a constant and Round are bijections"). -/
def Obligations.CipherIsPermutation : Prop :=
  ∀ (k : Subkeys) (i : Int) (j : Nat), legalTweak i j = true → Function.Bijective (cipherE k i j)

/-- The S-box table is the affine map of the inverse in GF(2^8), XOR 0x63, with the inverse of 0 taken as 0 (R171, which
the spec takes from general knowledge: log entry 15). -/
def Obligations.SboxFromDefinition : Prop :=
  ∀ x : Byte, ∃ y : Byte, (if x = 0#8 then y = 0#8 else gf8Mul x y = 0x01#8) ∧ sbox x = affineA y ^^^ 0x63#8

/-- Decipher inverts encipher and encipher inverts decipher, and the decipher's pass-1 values are the encipher's pass-2
values, its Sx and Sy the encipher's Sy and Sx, its S the encipher's S (R282, an inference the spec marks as its own:
"derived: from rule R275"). -/
def Obligations.CoreInverse : Prop :=
  ∀ (k : Subkeys) (delta : Block) (text : List Byte), 32 ≤ text.length →
    wideBlock k 1 delta (wideBlock k 0 delta text) = text ∧
    wideBlock k 0 delta (wideBlock k 1 delta text) = text ∧
    (∀ e c : CoreRun, e = coreRun k 0 delta (splitInput text) →
      c = coreRun k 1 delta (splitInput (wideBlock k 0 delta text)) →
      c.wv = e.wv.mapIdx (fun n q => (q.2 ^^^ cipherE k 2 (n + 1) e.s, q.1 ^^^ cipherE k 2 (n + 1) e.s)) ∧
      c.xa = e.ya ∧ c.sx = e.sy ∧ c.sy = e.sx ∧ c.s = e.s)

/-- On the machine: a DEC of what an ENC wrote, in place and under the same DELTA and keys, gives the input back (R276,
R277, R282; R282 is an inference the spec marks as its own). -/
def Obligations.DecUndoesEnc : Prop :=
  ∀ s t : State, CoreReady s → exec .enc s = .next t →
    ∃ v, exec .dec (withDec t s.issued.arg[(1 : Fin 4)] s.issued.arg[(1 : Fin 4)] s.issued.arg[(2 : Fin 4)]) = .next v ∧
      v.errcode = 0x00#8 ∧
      v.memRead s.issued.arg[(1 : Fin 4)].toNat s.issued.arg[(2 : Fin 4)].toNat
        = s.memRead s.issued.arg[(0 : Fin 4)].toNat s.issued.arg[(2 : Fin 4)].toNat

/-- The keystream (R250, R251): n bytes, byte b of them byte b mod 16 of E(-1, 3, Δ XOR [b div 16]_128). -/
def Obligations.PrfKeystream : Prop :=
  ∀ (k : Subkeys) (delta : Block) (n : Nat), (prf k delta n).length = n ∧
    ∀ b < n, (prf k delta n)[b]? =
      some (byteOf (cipherE k (-1) 3 (delta ^^^ BitVec.ofNat 128 (b / 16))) (b % 16))

/-- Absorbing one string (R231): block j, counted from 1, adds E(i, j, block); what is left over, or an empty string, adds
E(i, 0, pad10(rest)); nothing is added for a rest of 0 bytes after at least one block. -/
def Obligations.HabsOfBlocks : Prop :=
  ∀ (k : Subkeys) (i : Int) (blocks : List Block) (rest : List Byte), rest.length < 16 →
    habs k i (blocks.flatMap bytesOfBlock ++ rest) =
      xorAll (blocks.mapIdx fun t x => cipherE k i (t + 1) x) ^^^
        (if rest.length = 0 ∧ 0 < blocks.length then 0#128 else cipherE k i 0 (pad10 rest))

/-- Two HABS in either order leave the same DELTA (R233, an inference the spec marks as its own: "derived: from rule R231
and rule R232, since ⊕ is commutative and associative"). -/
def Obligations.HabsOrderIrrelevant : Prop :=
  ∀ (s s1 s2 t1 t2 : State) (x y : Vector Word 4), exec .habs (withHabs s x) = .next s1 →
    exec .habs (withHabs s1 y) = .next s2 → exec .habs (withHabs s y) = .next t1 →
    exec .habs (withHabs t1 x) = .next t2 → s2.delta = t2.delta

/-! ### The whole machine -/

/-- The invariant holds right after reset (R51). -/
def Obligations.InvariantAtReset : Prop := State.reset.Inv

/-- Every step keeps the invariant, from every state that has it: the engine's, the host's and the platform's. -/
def Obligations.InvariantKept : Prop := ∀ s t : State, s.Inv → step s = .next t → t.Inv

/-- No host access tells the key and schedule registers (R33, R35, R319): from two states that differ in nothing else,
the same access leads to two states that differ in nothing else, so the word read is the same. -/
def Obligations.KeysDoNotReachTheHost : Prop :=
  ∀ (s t : State) (a : HostAccess) (rest : List Event), SameButKeys s t → s.script = .access a :: rest →
    a.admitted s.params = true →
    ∃ s' t', step s = .next s' ∧ step t = .next t' ∧ SameButKeys s' t' ∧ s'.rdata = t'.rdata
end

