-- ==== Sys2Proof/Laws/Block.lean ====
section
/-! SUPPORT. Blocks and their bytes: the two views agree. -/

namespace Sys2Proof.Machine

/-- A byte appended on the right is the low byte. -/
theorem getLsbD_append_byte_low {w : Nat} (x : BitVec w) (y : Byte) (r : Nat) (hr : r < 8) :
    (x ++ y).getLsbD (8 * 0 + r) = y.getLsbD r := by
  simp [BitVec.getLsbD_append, hr]

/-- Above an appended byte the bits are the old ones, eight places up. -/
theorem getLsbD_append_byte_high {w : Nat} (x : BitVec w) (y : Byte) (q r : Nat) :
    (x ++ y).getLsbD (8 * (q + 1) + r) = x.getLsbD (8 * q + r) := by
  rw [BitVec.getLsbD_append, if_neg (by omega)]
  congr 1
  omega

/-- Bit i of a block built from bytes is a bit of byte 15 - i/8. -/
theorem getLsbD_blockOfFn (f : Nat → Byte) (i : Nat) (hi : i < 128) :
    (blockOfFn f).getLsbD i = (f (15 - i / 8)).getLsbD (i % 8) := by
  have h16 : i / 8 < 16 := by omega
  have h8 : i % 8 < 8 := by omega
  have hi' : i = 8 * (i / 8) + i % 8 := by omega
  generalize i / 8 = q at h16 hi'
  generalize i % 8 = r at h8 hi'
  subst hi'
  unfold blockOfFn
  interval_cases q <;> (repeat rw [getLsbD_append_byte_high]) <;>
    first | rw [getLsbD_append_byte_low _ _ _ h8] | (rw [Nat.mul_zero, Nat.zero_add])

@[simp] theorem byteOf_blockOfFn (f : Nat → Byte) (k : Nat) (hk : k < 16) : byteOf (blockOfFn f) k = f k := by
  apply BitVec.eq_of_getLsbD_eq
  intro i hi
  have e1 : 15 - (8 * (15 - k) + i) / 8 = k := by omega
  have e2 : (8 * (15 - k) + i) % 8 = i := by omega
  simp only [byteOf, BitVec.getLsbD_extractLsb', hi, decide_true, Bool.true_and]
  rw [getLsbD_blockOfFn f _ (by omega), e1, e2]

/-- Two blocks with the same 16 bytes are equal. -/
theorem block_ext (x y : Block) (h : ∀ k < 16, byteOf x k = byteOf y k) : x = y := by
  apply BitVec.eq_of_getLsbD_eq
  intro i hi
  have hb := congrArg (fun b => BitVec.getLsbD b (i % 8)) (h (15 - i / 8) (by omega))
  simp only [byteOf, BitVec.getLsbD_extractLsb', Nat.mod_lt i (show 8 > 0 by omega), decide_true, Bool.true_and] at hb
  have e : 8 * (15 - (15 - i / 8)) + i % 8 = i := by omega
  rwa [e] at hb

@[simp] theorem blockOfFn_byteOf (x : Block) : blockOfFn (byteOf x) = x :=
  block_ext _ _ fun k hk => byteOf_blockOfFn _ k hk

@[simp] theorem length_bytesOfBlock (x : Block) : (bytesOfBlock x).length = 16 := by simp [bytesOfBlock]

theorem getD_bytesOfBlock (x : Block) (k : Nat) (hk : k < 16) : (bytesOfBlock x).getD k 0#8 = byteOf x k := by
  simp [bytesOfBlock, hk]

@[simp] theorem blockOfBytes_bytesOfBlock (x : Block) : blockOfBytes (bytesOfBlock x) = x :=
  block_ext _ _ fun k hk => by rw [blockOfBytes, byteOf_blockOfFn _ k hk, getD_bytesOfBlock x k hk]

theorem bytesOfBlock_blockOfBytes (s : List Byte) (hs : s.length = 16) : bytesOfBlock (blockOfBytes s) = s := by
  apply List.ext_getElem (by simp [hs])
  intro k h1 h2
  have hk : k < 16 := by omega
  simp [bytesOfBlock, blockOfBytes, byteOf_blockOfFn _ k hk, h2]

/-- XOR of blocks is XOR of their bytes (R12). -/
theorem byteOf_xor (x y : Block) (k : Nat) : byteOf (x ^^^ y) k = byteOf x k ^^^ byteOf y k := by
  apply BitVec.eq_of_getLsbD_eq
  intro i hi
  simp [byteOf, hi]

@[simp] theorem length_xorBytes (s t : List Byte) : (xorBytes s t).length = min s.length t.length := by
  simp [xorBytes]

@[simp] theorem length_trunc (n : Nat) (x : Block) : (trunc n x).length = min n 16 := by simp [trunc]

/-- Masking twice with the same mask gives the string back. -/
theorem xorBytes_xorBytes (s t : List Byte) (h : s.length ≤ t.length) : xorBytes (xorBytes s t) t = s := by
  induction s generalizing t with
  | nil => simp [xorBytes]
  | cons a s ih =>
    cases t with
    | nil => simp at h
    | cons b t =>
      have := ih t (by simpa using h)
      simp only [xorBytes, List.zipWith_cons_cons] at this ⊢
      rw [this, BitVec.xor_assoc, BitVec.xor_self, BitVec.xor_zero]

/-- The words of a register are its bytes, little-endian (R46). -/
theorem wordByte_regWord (x : Block) (w : Fin 4) (k : Nat) (hk : k < 4) :
    wordByte (regWord x w) k = byteOf x (4 * w.val + k) := by
  apply BitVec.eq_of_getLsbD_eq
  intro i hi
  interval_cases k <;>
    simp only [wordByte, regWord, wordOfBytes, BitVec.getLsbD_extractLsb', BitVec.getLsbD_append, hi, decide_true,
      Bool.true_and] <;>
    (split_ifs <;> first | omega | (congr 1; omega))

theorem byteOf_setRegWord (x : Block) (w : Fin 4) (v : Word) (k : Nat) (hk : k < 16) :
    byteOf (setRegWord x w v) k = if k / 4 = w.val then wordByte v (k % 4) else byteOf x k := by
  rw [setRegWord, byteOf_blockOfFn _ k hk]

@[simp] theorem xorAll_nil : xorAll [] = 0#128 := rfl

@[simp] theorem xorAll_cons (x : Block) (xs : List Block) : xorAll (x :: xs) = x ^^^ xorAll xs := rfl

theorem xorAll_append (xs ys : List Block) : xorAll (xs ++ ys) = xorAll xs ^^^ xorAll ys := by
  induction xs with
  | nil => simp
  | cons x xs ih => rw [List.cons_append, xorAll_cons, xorAll_cons, ih, BitVec.xor_assoc]

end Sys2Proof.Machine
end

