-- ==== Sys2Proof/Laws/Ciphers.lean ====
section
/-! SUPPORT. The bytes of each step of an AES round, and how AEZ-hash grows by one string. -/

namespace Sys2Proof.Machine

theorem byteOf_subBytes (s : Block) (k : Nat) (hk : k < 16) : byteOf (subBytes s) k = sbox (byteOf s k) :=
  byteOf_blockOfFn _ k hk

theorem byteOf_shiftRows (s : Block) (k : Nat) (hk : k < 16) :
    byteOf (shiftRows s) k = byteOf s (k % 4 + 4 * ((k / 4 + k % 4) % 4)) := byteOf_blockOfFn _ k hk

theorem byteOf_mixColumns (s : Block) (k : Nat) (hk : k < 16) :
    byteOf (mixColumns s) k = mixRow (k % 4) (byteOf s (4 * (k / 4))) (byteOf s (4 * (k / 4) + 1))
      (byteOf s (4 * (k / 4) + 2)) (byteOf s (4 * (k / 4) + 3)) := byteOf_blockOfFn _ k hk

/-- No AD elements: the τ block and the nonce. -/
theorem aezHash_nil (k : Subkeys) (tau : Word) (nonce : List Byte) :
    aezHash k tau nonce [] = hashTau k tau ^^^ habs k 4 nonce := by simp [aezHash]

/-- One more AD element. -/
theorem aezHash_append (k : Subkeys) (tau : Word) (nonce : List Byte) (ad : List (List Byte)) (a : List Byte) :
    aezHash k tau nonce (ad ++ [a]) = aezHash k tau nonce ad ^^^ habs k ((5 + ad.length : Nat) : Int) a := by
  rw [aezHash, aezHash, List.mapIdx_append, xorAll_append, ← BitVec.xor_assoc]
  simp

end Sys2Proof.Machine
end

