-- ==== Sys2Proof/Laws/State.lean ====
section
/-! SUPPORT. What each update of the state does to each field, one lemma per field per update, so that no later proof
unfolds a record update. -/

namespace Sys2Proof.Machine

/-! ### setB -/

@[simp] theorem State.setB_params (s : State) (n : Reg) (v : Block) : (s.setB n v).params = s.params := rfl
@[simp] theorem State.setB_b (s : State) (n : Reg) (v : Block) : (s.setB n v).b = s.b.set n v := rfl
@[simp] theorem State.setB_ki (s : State) (n : Reg) (v : Block) : (s.setB n v).ki = s.ki := rfl
@[simp] theorem State.setB_kj (s : State) (n : Reg) (v : Block) : (s.setB n v).kj = s.kj := rfl
@[simp] theorem State.setB_kl (s : State) (n : Reg) (v : Block) : (s.setB n v).kl = s.kl := rfl
@[simp] theorem State.setB_kw (s : State) (n : Reg) (v : Block) : (s.setB n v).kw = s.kw := rfl
@[simp] theorem State.setB_rk (s : State) (n : Reg) (v : Block) : (s.setB n v).rk = s.rk := rfl
@[simp] theorem State.setB_delta (s : State) (n : Reg) (v : Block) : (s.setB n v).delta = s.delta := rfl
@[simp] theorem State.setB_hashv (s : State) (n : Reg) (v : Block) : (s.setB n v).hashv = s.hashv := rfl
@[simp] theorem State.setB_arg (s : State) (n : Reg) (v : Block) : (s.setB n v).arg = s.arg := rfl
@[simp] theorem State.setB_cmd (s : State) (n : Reg) (v : Block) : (s.setB n v).cmd = s.cmd := rfl
@[simp] theorem State.setB_errcmd (s : State) (n : Reg) (v : Block) : (s.setB n v).errcmd = s.errcmd := rfl
@[simp] theorem State.setB_irqEn (s : State) (n : Reg) (v : Block) : (s.setB n v).irqEn = s.irqEn := rfl
@[simp] theorem State.setB_done (s : State) (n : Reg) (v : Block) : (s.setB n v).done = s.done := rfl
@[simp] theorem State.setB_err (s : State) (n : Reg) (v : Block) : (s.setB n v).err = s.err := rfl
@[simp] theorem State.setB_ovr (s : State) (n : Reg) (v : Block) : (s.setB n v).ovr = s.ovr := rfl
@[simp] theorem State.setB_errcode (s : State) (n : Reg) (v : Block) : (s.setB n v).errcode = s.errcode := rfl
@[simp] theorem State.setB_pending (s : State) (n : Reg) (v : Block) : (s.setB n v).pending = s.pending := rfl
@[simp] theorem State.setB_dmem (s : State) (n : Reg) (v : Block) : (s.setB n v).dmem = s.dmem := rfl
@[simp] theorem State.setB_epoch (s : State) (n : Reg) (v : Block) : (s.setB n v).epoch = s.epoch := rfl
@[simp] theorem State.setB_draws (s : State) (n : Reg) (v : Block) : (s.setB n v).draws = s.draws := rfl
@[simp] theorem State.setB_script (s : State) (n : Reg) (v : Block) : (s.setB n v).script = s.script := rfl
@[simp] theorem State.setB_rdata (s : State) (n : Reg) (v : Block) : (s.setB n v).rdata = s.rdata := rfl

/-! ### setRk -/

@[simp] theorem State.setRk_params (s : State) (n : Fin 4) (v : Block) : (s.setRk n v).params = s.params := rfl
@[simp] theorem State.setRk_b (s : State) (n : Fin 4) (v : Block) : (s.setRk n v).b = s.b := rfl
@[simp] theorem State.setRk_ki (s : State) (n : Fin 4) (v : Block) : (s.setRk n v).ki = s.ki := rfl
@[simp] theorem State.setRk_kj (s : State) (n : Fin 4) (v : Block) : (s.setRk n v).kj = s.kj := rfl
@[simp] theorem State.setRk_kl (s : State) (n : Fin 4) (v : Block) : (s.setRk n v).kl = s.kl := rfl
@[simp] theorem State.setRk_kw (s : State) (n : Fin 4) (v : Block) : (s.setRk n v).kw = s.kw := rfl
@[simp] theorem State.setRk_rk (s : State) (n : Fin 4) (v : Block) : (s.setRk n v).rk = s.rk.set n v := rfl
@[simp] theorem State.setRk_delta (s : State) (n : Fin 4) (v : Block) : (s.setRk n v).delta = s.delta := rfl
@[simp] theorem State.setRk_hashv (s : State) (n : Fin 4) (v : Block) : (s.setRk n v).hashv = s.hashv := rfl
@[simp] theorem State.setRk_arg (s : State) (n : Fin 4) (v : Block) : (s.setRk n v).arg = s.arg := rfl
@[simp] theorem State.setRk_cmd (s : State) (n : Fin 4) (v : Block) : (s.setRk n v).cmd = s.cmd := rfl
@[simp] theorem State.setRk_errcmd (s : State) (n : Fin 4) (v : Block) : (s.setRk n v).errcmd = s.errcmd := rfl
@[simp] theorem State.setRk_irqEn (s : State) (n : Fin 4) (v : Block) : (s.setRk n v).irqEn = s.irqEn := rfl
@[simp] theorem State.setRk_done (s : State) (n : Fin 4) (v : Block) : (s.setRk n v).done = s.done := rfl
@[simp] theorem State.setRk_err (s : State) (n : Fin 4) (v : Block) : (s.setRk n v).err = s.err := rfl
@[simp] theorem State.setRk_ovr (s : State) (n : Fin 4) (v : Block) : (s.setRk n v).ovr = s.ovr := rfl
@[simp] theorem State.setRk_errcode (s : State) (n : Fin 4) (v : Block) : (s.setRk n v).errcode = s.errcode := rfl
@[simp] theorem State.setRk_pending (s : State) (n : Fin 4) (v : Block) : (s.setRk n v).pending = s.pending := rfl
@[simp] theorem State.setRk_dmem (s : State) (n : Fin 4) (v : Block) : (s.setRk n v).dmem = s.dmem := rfl
@[simp] theorem State.setRk_epoch (s : State) (n : Fin 4) (v : Block) : (s.setRk n v).epoch = s.epoch := rfl
@[simp] theorem State.setRk_draws (s : State) (n : Fin 4) (v : Block) : (s.setRk n v).draws = s.draws := rfl
@[simp] theorem State.setRk_script (s : State) (n : Fin 4) (v : Block) : (s.setRk n v).script = s.script := rfl
@[simp] theorem State.setRk_rdata (s : State) (n : Fin 4) (v : Block) : (s.setRk n v).rdata = s.rdata := rfl

/-! ### setRkAll -/

@[simp] theorem State.setRkAll_params (s : State) (v : Block) : (s.setRkAll v).params = s.params := rfl
@[simp] theorem State.setRkAll_b (s : State) (v : Block) : (s.setRkAll v).b = s.b := rfl
@[simp] theorem State.setRkAll_ki (s : State) (v : Block) : (s.setRkAll v).ki = s.ki := rfl
@[simp] theorem State.setRkAll_kj (s : State) (v : Block) : (s.setRkAll v).kj = s.kj := rfl
@[simp] theorem State.setRkAll_kl (s : State) (v : Block) : (s.setRkAll v).kl = s.kl := rfl
@[simp] theorem State.setRkAll_kw (s : State) (v : Block) : (s.setRkAll v).kw = s.kw := rfl
@[simp] theorem State.setRkAll_rk (s : State) (v : Block) : (s.setRkAll v).rk = Vector.replicate 4 v := rfl
@[simp] theorem State.setRkAll_delta (s : State) (v : Block) : (s.setRkAll v).delta = s.delta := rfl
@[simp] theorem State.setRkAll_hashv (s : State) (v : Block) : (s.setRkAll v).hashv = s.hashv := rfl
@[simp] theorem State.setRkAll_arg (s : State) (v : Block) : (s.setRkAll v).arg = s.arg := rfl
@[simp] theorem State.setRkAll_cmd (s : State) (v : Block) : (s.setRkAll v).cmd = s.cmd := rfl
@[simp] theorem State.setRkAll_errcmd (s : State) (v : Block) : (s.setRkAll v).errcmd = s.errcmd := rfl
@[simp] theorem State.setRkAll_irqEn (s : State) (v : Block) : (s.setRkAll v).irqEn = s.irqEn := rfl
@[simp] theorem State.setRkAll_done (s : State) (v : Block) : (s.setRkAll v).done = s.done := rfl
@[simp] theorem State.setRkAll_err (s : State) (v : Block) : (s.setRkAll v).err = s.err := rfl
@[simp] theorem State.setRkAll_ovr (s : State) (v : Block) : (s.setRkAll v).ovr = s.ovr := rfl
@[simp] theorem State.setRkAll_errcode (s : State) (v : Block) : (s.setRkAll v).errcode = s.errcode := rfl
@[simp] theorem State.setRkAll_pending (s : State) (v : Block) : (s.setRkAll v).pending = s.pending := rfl
@[simp] theorem State.setRkAll_dmem (s : State) (v : Block) : (s.setRkAll v).dmem = s.dmem := rfl
@[simp] theorem State.setRkAll_epoch (s : State) (v : Block) : (s.setRkAll v).epoch = s.epoch := rfl
@[simp] theorem State.setRkAll_draws (s : State) (v : Block) : (s.setRkAll v).draws = s.draws := rfl
@[simp] theorem State.setRkAll_script (s : State) (v : Block) : (s.setRkAll v).script = s.script := rfl
@[simp] theorem State.setRkAll_rdata (s : State) (v : Block) : (s.setRkAll v).rdata = s.rdata := rfl

/-! ### setDelta -/

@[simp] theorem State.setDelta_params (s : State) (v : Block) : (s.setDelta v).params = s.params := rfl
@[simp] theorem State.setDelta_b (s : State) (v : Block) : (s.setDelta v).b = s.b := rfl
@[simp] theorem State.setDelta_ki (s : State) (v : Block) : (s.setDelta v).ki = s.ki := rfl
@[simp] theorem State.setDelta_kj (s : State) (v : Block) : (s.setDelta v).kj = s.kj := rfl
@[simp] theorem State.setDelta_kl (s : State) (v : Block) : (s.setDelta v).kl = s.kl := rfl
@[simp] theorem State.setDelta_kw (s : State) (v : Block) : (s.setDelta v).kw = s.kw := rfl
@[simp] theorem State.setDelta_rk (s : State) (v : Block) : (s.setDelta v).rk = s.rk := rfl
@[simp] theorem State.setDelta_delta (s : State) (v : Block) : (s.setDelta v).delta = v := rfl
@[simp] theorem State.setDelta_hashv (s : State) (v : Block) : (s.setDelta v).hashv = s.hashv := rfl
@[simp] theorem State.setDelta_arg (s : State) (v : Block) : (s.setDelta v).arg = s.arg := rfl
@[simp] theorem State.setDelta_cmd (s : State) (v : Block) : (s.setDelta v).cmd = s.cmd := rfl
@[simp] theorem State.setDelta_errcmd (s : State) (v : Block) : (s.setDelta v).errcmd = s.errcmd := rfl
@[simp] theorem State.setDelta_irqEn (s : State) (v : Block) : (s.setDelta v).irqEn = s.irqEn := rfl
@[simp] theorem State.setDelta_done (s : State) (v : Block) : (s.setDelta v).done = s.done := rfl
@[simp] theorem State.setDelta_err (s : State) (v : Block) : (s.setDelta v).err = s.err := rfl
@[simp] theorem State.setDelta_ovr (s : State) (v : Block) : (s.setDelta v).ovr = s.ovr := rfl
@[simp] theorem State.setDelta_errcode (s : State) (v : Block) : (s.setDelta v).errcode = s.errcode := rfl
@[simp] theorem State.setDelta_pending (s : State) (v : Block) : (s.setDelta v).pending = s.pending := rfl
@[simp] theorem State.setDelta_dmem (s : State) (v : Block) : (s.setDelta v).dmem = s.dmem := rfl
@[simp] theorem State.setDelta_epoch (s : State) (v : Block) : (s.setDelta v).epoch = s.epoch := rfl
@[simp] theorem State.setDelta_draws (s : State) (v : Block) : (s.setDelta v).draws = s.draws := rfl
@[simp] theorem State.setDelta_script (s : State) (v : Block) : (s.setDelta v).script = s.script := rfl
@[simp] theorem State.setDelta_rdata (s : State) (v : Block) : (s.setDelta v).rdata = s.rdata := rfl

/-! ### loadDelta -/

@[simp] theorem State.loadDelta_params (s : State) (v : Block) : (s.loadDelta v).params = s.params := rfl
@[simp] theorem State.loadDelta_b (s : State) (v : Block) : (s.loadDelta v).b = s.b := rfl
@[simp] theorem State.loadDelta_ki (s : State) (v : Block) : (s.loadDelta v).ki = s.ki := rfl
@[simp] theorem State.loadDelta_kj (s : State) (v : Block) : (s.loadDelta v).kj = s.kj := rfl
@[simp] theorem State.loadDelta_kl (s : State) (v : Block) : (s.loadDelta v).kl = s.kl := rfl
@[simp] theorem State.loadDelta_kw (s : State) (v : Block) : (s.loadDelta v).kw = s.kw := rfl
@[simp] theorem State.loadDelta_rk (s : State) (v : Block) : (s.loadDelta v).rk = s.rk := rfl
@[simp] theorem State.loadDelta_delta (s : State) (v : Block) : (s.loadDelta v).delta = v := rfl
@[simp] theorem State.loadDelta_hashv (s : State) (v : Block) : (s.loadDelta v).hashv = true := rfl
@[simp] theorem State.loadDelta_arg (s : State) (v : Block) : (s.loadDelta v).arg = s.arg := rfl
@[simp] theorem State.loadDelta_cmd (s : State) (v : Block) : (s.loadDelta v).cmd = s.cmd := rfl
@[simp] theorem State.loadDelta_errcmd (s : State) (v : Block) : (s.loadDelta v).errcmd = s.errcmd := rfl
@[simp] theorem State.loadDelta_irqEn (s : State) (v : Block) : (s.loadDelta v).irqEn = s.irqEn := rfl
@[simp] theorem State.loadDelta_done (s : State) (v : Block) : (s.loadDelta v).done = s.done := rfl
@[simp] theorem State.loadDelta_err (s : State) (v : Block) : (s.loadDelta v).err = s.err := rfl
@[simp] theorem State.loadDelta_ovr (s : State) (v : Block) : (s.loadDelta v).ovr = s.ovr := rfl
@[simp] theorem State.loadDelta_errcode (s : State) (v : Block) : (s.loadDelta v).errcode = s.errcode := rfl
@[simp] theorem State.loadDelta_pending (s : State) (v : Block) : (s.loadDelta v).pending = s.pending := rfl
@[simp] theorem State.loadDelta_dmem (s : State) (v : Block) : (s.loadDelta v).dmem = s.dmem := rfl
@[simp] theorem State.loadDelta_epoch (s : State) (v : Block) : (s.loadDelta v).epoch = s.epoch := rfl
@[simp] theorem State.loadDelta_draws (s : State) (v : Block) : (s.loadDelta v).draws = s.draws := rfl
@[simp] theorem State.loadDelta_script (s : State) (v : Block) : (s.loadDelta v).script = s.script := rfl
@[simp] theorem State.loadDelta_rdata (s : State) (v : Block) : (s.loadDelta v).rdata = s.rdata := rfl

/-! ### setArg -/

@[simp] theorem State.setArg_params (s : State) (n : Fin 4) (v : Word) : (s.setArg n v).params = s.params := rfl
@[simp] theorem State.setArg_b (s : State) (n : Fin 4) (v : Word) : (s.setArg n v).b = s.b := rfl
@[simp] theorem State.setArg_ki (s : State) (n : Fin 4) (v : Word) : (s.setArg n v).ki = s.ki := rfl
@[simp] theorem State.setArg_kj (s : State) (n : Fin 4) (v : Word) : (s.setArg n v).kj = s.kj := rfl
@[simp] theorem State.setArg_kl (s : State) (n : Fin 4) (v : Word) : (s.setArg n v).kl = s.kl := rfl
@[simp] theorem State.setArg_kw (s : State) (n : Fin 4) (v : Word) : (s.setArg n v).kw = s.kw := rfl
@[simp] theorem State.setArg_rk (s : State) (n : Fin 4) (v : Word) : (s.setArg n v).rk = s.rk := rfl
@[simp] theorem State.setArg_delta (s : State) (n : Fin 4) (v : Word) : (s.setArg n v).delta = s.delta := rfl
@[simp] theorem State.setArg_hashv (s : State) (n : Fin 4) (v : Word) : (s.setArg n v).hashv = s.hashv := rfl
@[simp] theorem State.setArg_arg (s : State) (n : Fin 4) (v : Word) : (s.setArg n v).arg = s.arg.set n v := rfl
@[simp] theorem State.setArg_cmd (s : State) (n : Fin 4) (v : Word) : (s.setArg n v).cmd = s.cmd := rfl
@[simp] theorem State.setArg_errcmd (s : State) (n : Fin 4) (v : Word) : (s.setArg n v).errcmd = s.errcmd := rfl
@[simp] theorem State.setArg_irqEn (s : State) (n : Fin 4) (v : Word) : (s.setArg n v).irqEn = s.irqEn := rfl
@[simp] theorem State.setArg_done (s : State) (n : Fin 4) (v : Word) : (s.setArg n v).done = s.done := rfl
@[simp] theorem State.setArg_err (s : State) (n : Fin 4) (v : Word) : (s.setArg n v).err = s.err := rfl
@[simp] theorem State.setArg_ovr (s : State) (n : Fin 4) (v : Word) : (s.setArg n v).ovr = s.ovr := rfl
@[simp] theorem State.setArg_errcode (s : State) (n : Fin 4) (v : Word) : (s.setArg n v).errcode = s.errcode := rfl
@[simp] theorem State.setArg_pending (s : State) (n : Fin 4) (v : Word) : (s.setArg n v).pending = s.pending := rfl
@[simp] theorem State.setArg_dmem (s : State) (n : Fin 4) (v : Word) : (s.setArg n v).dmem = s.dmem := rfl
@[simp] theorem State.setArg_epoch (s : State) (n : Fin 4) (v : Word) : (s.setArg n v).epoch = s.epoch := rfl
@[simp] theorem State.setArg_draws (s : State) (n : Fin 4) (v : Word) : (s.setArg n v).draws = s.draws := rfl
@[simp] theorem State.setArg_script (s : State) (n : Fin 4) (v : Word) : (s.setArg n v).script = s.script := rfl
@[simp] theorem State.setArg_rdata (s : State) (n : Fin 4) (v : Word) : (s.setArg n v).rdata = s.rdata := rfl

/-! ### zeroize -/

@[simp] theorem State.zeroize_params (s : State) : (s.zeroize).params = s.params := rfl
@[simp] theorem State.zeroize_b (s : State) : (s.zeroize).b = Vector.replicate 8 0#128 := rfl
@[simp] theorem State.zeroize_ki (s : State) : (s.zeroize).ki = 0#128 := rfl
@[simp] theorem State.zeroize_kj (s : State) : (s.zeroize).kj = 0#128 := rfl
@[simp] theorem State.zeroize_kl (s : State) : (s.zeroize).kl = 0#128 := rfl
@[simp] theorem State.zeroize_kw (s : State) : (s.zeroize).kw = 0#3 := rfl
@[simp] theorem State.zeroize_rk (s : State) : (s.zeroize).rk = Vector.replicate 4 0#128 := rfl
@[simp] theorem State.zeroize_delta (s : State) : (s.zeroize).delta = 0#128 := rfl
@[simp] theorem State.zeroize_hashv (s : State) : (s.zeroize).hashv = false := rfl
@[simp] theorem State.zeroize_arg (s : State) : (s.zeroize).arg = s.arg := rfl
@[simp] theorem State.zeroize_cmd (s : State) : (s.zeroize).cmd = s.cmd := rfl
@[simp] theorem State.zeroize_errcmd (s : State) : (s.zeroize).errcmd = s.errcmd := rfl
@[simp] theorem State.zeroize_irqEn (s : State) : (s.zeroize).irqEn = s.irqEn := rfl
@[simp] theorem State.zeroize_done (s : State) : (s.zeroize).done = s.done := rfl
@[simp] theorem State.zeroize_err (s : State) : (s.zeroize).err = s.err := rfl
@[simp] theorem State.zeroize_ovr (s : State) : (s.zeroize).ovr = s.ovr := rfl
@[simp] theorem State.zeroize_errcode (s : State) : (s.zeroize).errcode = s.errcode := rfl
@[simp] theorem State.zeroize_pending (s : State) : (s.zeroize).pending = s.pending := rfl
@[simp] theorem State.zeroize_dmem (s : State) : (s.zeroize).dmem = s.dmem := rfl
@[simp] theorem State.zeroize_epoch (s : State) : (s.zeroize).epoch = s.epoch := rfl
@[simp] theorem State.zeroize_draws (s : State) : (s.zeroize).draws = s.draws := rfl
@[simp] theorem State.zeroize_script (s : State) : (s.zeroize).script = s.script := rfl
@[simp] theorem State.zeroize_rdata (s : State) : (s.zeroize).rdata = s.rdata := rfl

/-! ### memWrite -/

@[simp] theorem State.memWrite_params (s : State) (a : Nat) (l : List Byte) :
    (s.memWrite a l).params = s.params := rfl
@[simp] theorem State.memWrite_b (s : State) (a : Nat) (l : List Byte) : (s.memWrite a l).b = s.b := rfl
@[simp] theorem State.memWrite_ki (s : State) (a : Nat) (l : List Byte) : (s.memWrite a l).ki = s.ki := rfl
@[simp] theorem State.memWrite_kj (s : State) (a : Nat) (l : List Byte) : (s.memWrite a l).kj = s.kj := rfl
@[simp] theorem State.memWrite_kl (s : State) (a : Nat) (l : List Byte) : (s.memWrite a l).kl = s.kl := rfl
@[simp] theorem State.memWrite_kw (s : State) (a : Nat) (l : List Byte) : (s.memWrite a l).kw = s.kw := rfl
@[simp] theorem State.memWrite_rk (s : State) (a : Nat) (l : List Byte) : (s.memWrite a l).rk = s.rk := rfl
@[simp] theorem State.memWrite_delta (s : State) (a : Nat) (l : List Byte) : (s.memWrite a l).delta = s.delta := rfl
@[simp] theorem State.memWrite_hashv (s : State) (a : Nat) (l : List Byte) : (s.memWrite a l).hashv = s.hashv := rfl
@[simp] theorem State.memWrite_arg (s : State) (a : Nat) (l : List Byte) : (s.memWrite a l).arg = s.arg := rfl
@[simp] theorem State.memWrite_cmd (s : State) (a : Nat) (l : List Byte) : (s.memWrite a l).cmd = s.cmd := rfl
@[simp] theorem State.memWrite_errcmd (s : State) (a : Nat) (l : List Byte) :
    (s.memWrite a l).errcmd = s.errcmd := rfl
@[simp] theorem State.memWrite_irqEn (s : State) (a : Nat) (l : List Byte) : (s.memWrite a l).irqEn = s.irqEn := rfl
@[simp] theorem State.memWrite_done (s : State) (a : Nat) (l : List Byte) : (s.memWrite a l).done = s.done := rfl
@[simp] theorem State.memWrite_err (s : State) (a : Nat) (l : List Byte) : (s.memWrite a l).err = s.err := rfl
@[simp] theorem State.memWrite_ovr (s : State) (a : Nat) (l : List Byte) : (s.memWrite a l).ovr = s.ovr := rfl
@[simp] theorem State.memWrite_errcode (s : State) (a : Nat) (l : List Byte) :
    (s.memWrite a l).errcode = s.errcode := rfl
@[simp] theorem State.memWrite_pending (s : State) (a : Nat) (l : List Byte) :
    (s.memWrite a l).pending = s.pending := rfl
@[simp] theorem State.memWrite_dmem (s : State) (a : Nat) (l : List Byte) :
    (s.memWrite a l).dmem = s.dmem.insertBytes a l := rfl
@[simp] theorem State.memWrite_epoch (s : State) (a : Nat) (l : List Byte) : (s.memWrite a l).epoch = s.epoch := rfl
@[simp] theorem State.memWrite_draws (s : State) (a : Nat) (l : List Byte) : (s.memWrite a l).draws = s.draws := rfl
@[simp] theorem State.memWrite_script (s : State) (a : Nat) (l : List Byte) :
    (s.memWrite a l).script = s.script := rfl
@[simp] theorem State.memWrite_rdata (s : State) (a : Nat) (l : List Byte) : (s.memWrite a l).rdata = s.rdata := rfl

/-! ### complete -/

@[simp] theorem State.complete_params (s : State) : (s.complete).params = s.params := rfl
@[simp] theorem State.complete_b (s : State) : (s.complete).b = s.b := rfl
@[simp] theorem State.complete_ki (s : State) : (s.complete).ki = s.ki := rfl
@[simp] theorem State.complete_kj (s : State) : (s.complete).kj = s.kj := rfl
@[simp] theorem State.complete_kl (s : State) : (s.complete).kl = s.kl := rfl
@[simp] theorem State.complete_kw (s : State) : (s.complete).kw = s.kw := rfl
@[simp] theorem State.complete_rk (s : State) : (s.complete).rk = s.rk := rfl
@[simp] theorem State.complete_delta (s : State) : (s.complete).delta = s.delta := rfl
@[simp] theorem State.complete_hashv (s : State) : (s.complete).hashv = s.hashv := rfl
@[simp] theorem State.complete_arg (s : State) : (s.complete).arg = s.arg := rfl
@[simp] theorem State.complete_cmd (s : State) : (s.complete).cmd = s.cmd := rfl
@[simp] theorem State.complete_errcmd (s : State) : (s.complete).errcmd = s.errcmd := rfl
@[simp] theorem State.complete_irqEn (s : State) : (s.complete).irqEn = s.irqEn := rfl
@[simp] theorem State.complete_done (s : State) : (s.complete).done = true := rfl
@[simp] theorem State.complete_err (s : State) : (s.complete).err = s.err := rfl
@[simp] theorem State.complete_ovr (s : State) : (s.complete).ovr = s.ovr := rfl
@[simp] theorem State.complete_errcode (s : State) : (s.complete).errcode = 0x00#8 := rfl
@[simp] theorem State.complete_pending (s : State) : (s.complete).pending = none := rfl
@[simp] theorem State.complete_dmem (s : State) : (s.complete).dmem = s.dmem := rfl
@[simp] theorem State.complete_epoch (s : State) : (s.complete).epoch = s.epoch := rfl
@[simp] theorem State.complete_draws (s : State) : (s.complete).draws = s.draws := rfl
@[simp] theorem State.complete_script (s : State) : (s.complete).script = s.script := rfl
@[simp] theorem State.complete_rdata (s : State) : (s.complete).rdata = s.rdata := rfl

/-! ### raiseError -/

@[simp] theorem State.raiseError_params (s : State) (e : ErrCode) : (s.raiseError e).params = s.params := rfl
@[simp] theorem State.raiseError_b (s : State) (e : ErrCode) : (s.raiseError e).b = s.b := rfl
@[simp] theorem State.raiseError_ki (s : State) (e : ErrCode) : (s.raiseError e).ki = s.ki := rfl
@[simp] theorem State.raiseError_kj (s : State) (e : ErrCode) : (s.raiseError e).kj = s.kj := rfl
@[simp] theorem State.raiseError_kl (s : State) (e : ErrCode) : (s.raiseError e).kl = s.kl := rfl
@[simp] theorem State.raiseError_kw (s : State) (e : ErrCode) : (s.raiseError e).kw = s.kw := rfl
@[simp] theorem State.raiseError_rk (s : State) (e : ErrCode) : (s.raiseError e).rk = s.rk := rfl
@[simp] theorem State.raiseError_delta (s : State) (e : ErrCode) : (s.raiseError e).delta = s.delta := rfl
@[simp] theorem State.raiseError_hashv (s : State) (e : ErrCode) : (s.raiseError e).hashv = s.hashv := rfl
@[simp] theorem State.raiseError_arg (s : State) (e : ErrCode) : (s.raiseError e).arg = s.arg := rfl
@[simp] theorem State.raiseError_cmd (s : State) (e : ErrCode) : (s.raiseError e).cmd = s.cmd := rfl
@[simp] theorem State.raiseError_errcmd (s : State) (e : ErrCode) : (s.raiseError e).errcmd = s.issued.cw := rfl
@[simp] theorem State.raiseError_irqEn (s : State) (e : ErrCode) : (s.raiseError e).irqEn = s.irqEn := rfl
@[simp] theorem State.raiseError_done (s : State) (e : ErrCode) : (s.raiseError e).done = true := rfl
@[simp] theorem State.raiseError_err (s : State) (e : ErrCode) : (s.raiseError e).err = true := rfl
@[simp] theorem State.raiseError_ovr (s : State) (e : ErrCode) : (s.raiseError e).ovr = s.ovr := rfl
@[simp] theorem State.raiseError_errcode (s : State) (e : ErrCode) : (s.raiseError e).errcode = e.code := rfl
@[simp] theorem State.raiseError_pending (s : State) (e : ErrCode) : (s.raiseError e).pending = none := rfl
@[simp] theorem State.raiseError_dmem (s : State) (e : ErrCode) : (s.raiseError e).dmem = s.dmem := rfl
@[simp] theorem State.raiseError_epoch (s : State) (e : ErrCode) : (s.raiseError e).epoch = s.epoch := rfl
@[simp] theorem State.raiseError_draws (s : State) (e : ErrCode) : (s.raiseError e).draws = s.draws := rfl
@[simp] theorem State.raiseError_script (s : State) (e : ErrCode) : (s.raiseError e).script = s.script := rfl
@[simp] theorem State.raiseError_rdata (s : State) (e : ErrCode) : (s.raiseError e).rdata = s.rdata := rfl

/-! ### issue -/

@[simp] theorem State.issue_params (s : State) (v : Word) : (s.issue v).params = s.params := rfl
@[simp] theorem State.issue_b (s : State) (v : Word) : (s.issue v).b = s.b := rfl
@[simp] theorem State.issue_ki (s : State) (v : Word) : (s.issue v).ki = s.ki := rfl
@[simp] theorem State.issue_kj (s : State) (v : Word) : (s.issue v).kj = s.kj := rfl
@[simp] theorem State.issue_kl (s : State) (v : Word) : (s.issue v).kl = s.kl := rfl
@[simp] theorem State.issue_kw (s : State) (v : Word) : (s.issue v).kw = s.kw := rfl
@[simp] theorem State.issue_rk (s : State) (v : Word) : (s.issue v).rk = s.rk := rfl
@[simp] theorem State.issue_delta (s : State) (v : Word) : (s.issue v).delta = s.delta := rfl
@[simp] theorem State.issue_hashv (s : State) (v : Word) : (s.issue v).hashv = s.hashv := rfl
@[simp] theorem State.issue_arg (s : State) (v : Word) : (s.issue v).arg = s.arg := rfl
@[simp] theorem State.issue_cmd (s : State) (v : Word) : (s.issue v).cmd = v := rfl
@[simp] theorem State.issue_errcmd (s : State) (v : Word) : (s.issue v).errcmd = s.errcmd := rfl
@[simp] theorem State.issue_irqEn (s : State) (v : Word) : (s.issue v).irqEn = s.irqEn := rfl
@[simp] theorem State.issue_done (s : State) (v : Word) : (s.issue v).done = false := rfl
@[simp] theorem State.issue_err (s : State) (v : Word) : (s.issue v).err = false := rfl
@[simp] theorem State.issue_ovr (s : State) (v : Word) : (s.issue v).ovr = s.ovr := rfl
@[simp] theorem State.issue_errcode (s : State) (v : Word) : (s.issue v).errcode = 0x00#8 := rfl
@[simp] theorem State.issue_pending (s : State) (v : Word) :
    (s.issue v).pending = some { cw := v, arg := s.arg } := rfl
@[simp] theorem State.issue_dmem (s : State) (v : Word) : (s.issue v).dmem = s.dmem := rfl
@[simp] theorem State.issue_epoch (s : State) (v : Word) : (s.issue v).epoch = s.epoch := rfl
@[simp] theorem State.issue_draws (s : State) (v : Word) : (s.issue v).draws = s.draws := rfl
@[simp] theorem State.issue_script (s : State) (v : Word) : (s.issue v).script = s.script := rfl
@[simp] theorem State.issue_rdata (s : State) (v : Word) : (s.issue v).rdata = s.rdata := rfl

/-! ### clearStatus -/

@[simp] theorem State.clearStatus_params (s : State) (v : Word) : (s.clearStatus v).params = s.params := rfl
@[simp] theorem State.clearStatus_b (s : State) (v : Word) : (s.clearStatus v).b = s.b := rfl
@[simp] theorem State.clearStatus_ki (s : State) (v : Word) : (s.clearStatus v).ki = s.ki := rfl
@[simp] theorem State.clearStatus_kj (s : State) (v : Word) : (s.clearStatus v).kj = s.kj := rfl
@[simp] theorem State.clearStatus_kl (s : State) (v : Word) : (s.clearStatus v).kl = s.kl := rfl
@[simp] theorem State.clearStatus_kw (s : State) (v : Word) : (s.clearStatus v).kw = s.kw := rfl
@[simp] theorem State.clearStatus_rk (s : State) (v : Word) : (s.clearStatus v).rk = s.rk := rfl
@[simp] theorem State.clearStatus_delta (s : State) (v : Word) : (s.clearStatus v).delta = s.delta := rfl
@[simp] theorem State.clearStatus_hashv (s : State) (v : Word) : (s.clearStatus v).hashv = s.hashv := rfl
@[simp] theorem State.clearStatus_arg (s : State) (v : Word) : (s.clearStatus v).arg = s.arg := rfl
@[simp] theorem State.clearStatus_cmd (s : State) (v : Word) : (s.clearStatus v).cmd = s.cmd := rfl
@[simp] theorem State.clearStatus_errcmd (s : State) (v : Word) : (s.clearStatus v).errcmd = s.errcmd := rfl
@[simp] theorem State.clearStatus_irqEn (s : State) (v : Word) : (s.clearStatus v).irqEn = s.irqEn := rfl
@[simp] theorem State.clearStatus_done (s : State) (v : Word) :
    (s.clearStatus v).done = (s.done && !v.getLsbD 1) := rfl
@[simp] theorem State.clearStatus_err (s : State) (v : Word) : (s.clearStatus v).err = (s.err && !v.getLsbD 2) := rfl
@[simp] theorem State.clearStatus_ovr (s : State) (v : Word) : (s.clearStatus v).ovr = (s.ovr && !v.getLsbD 3) := rfl
@[simp] theorem State.clearStatus_errcode (s : State) (v : Word) :
    (s.clearStatus v).errcode = if v.getLsbD 2 then 0#8 else s.errcode := rfl
@[simp] theorem State.clearStatus_pending (s : State) (v : Word) : (s.clearStatus v).pending = s.pending := rfl
@[simp] theorem State.clearStatus_dmem (s : State) (v : Word) : (s.clearStatus v).dmem = s.dmem := rfl
@[simp] theorem State.clearStatus_epoch (s : State) (v : Word) : (s.clearStatus v).epoch = s.epoch := rfl
@[simp] theorem State.clearStatus_draws (s : State) (v : Word) : (s.clearStatus v).draws = s.draws := rfl
@[simp] theorem State.clearStatus_script (s : State) (v : Word) : (s.clearStatus v).script = s.script := rfl
@[simp] theorem State.clearStatus_rdata (s : State) (v : Word) : (s.clearStatus v).rdata = s.rdata := rfl

/-! ### dropWrite -/

@[simp] theorem State.dropWrite_params (s : State) : (s.dropWrite).params = s.params := rfl
@[simp] theorem State.dropWrite_b (s : State) : (s.dropWrite).b = s.b := rfl
@[simp] theorem State.dropWrite_ki (s : State) : (s.dropWrite).ki = s.ki := rfl
@[simp] theorem State.dropWrite_kj (s : State) : (s.dropWrite).kj = s.kj := rfl
@[simp] theorem State.dropWrite_kl (s : State) : (s.dropWrite).kl = s.kl := rfl
@[simp] theorem State.dropWrite_kw (s : State) : (s.dropWrite).kw = s.kw := rfl
@[simp] theorem State.dropWrite_rk (s : State) : (s.dropWrite).rk = s.rk := rfl
@[simp] theorem State.dropWrite_delta (s : State) : (s.dropWrite).delta = s.delta := rfl
@[simp] theorem State.dropWrite_hashv (s : State) : (s.dropWrite).hashv = s.hashv := rfl
@[simp] theorem State.dropWrite_arg (s : State) : (s.dropWrite).arg = s.arg := rfl
@[simp] theorem State.dropWrite_cmd (s : State) : (s.dropWrite).cmd = s.cmd := rfl
@[simp] theorem State.dropWrite_errcmd (s : State) : (s.dropWrite).errcmd = s.errcmd := rfl
@[simp] theorem State.dropWrite_irqEn (s : State) : (s.dropWrite).irqEn = s.irqEn := rfl
@[simp] theorem State.dropWrite_done (s : State) : (s.dropWrite).done = s.done := rfl
@[simp] theorem State.dropWrite_err (s : State) : (s.dropWrite).err = s.err := rfl
@[simp] theorem State.dropWrite_ovr (s : State) : (s.dropWrite).ovr = true := rfl
@[simp] theorem State.dropWrite_errcode (s : State) : (s.dropWrite).errcode = s.errcode := rfl
@[simp] theorem State.dropWrite_pending (s : State) : (s.dropWrite).pending = s.pending := rfl
@[simp] theorem State.dropWrite_dmem (s : State) : (s.dropWrite).dmem = s.dmem := rfl
@[simp] theorem State.dropWrite_epoch (s : State) : (s.dropWrite).epoch = s.epoch := rfl
@[simp] theorem State.dropWrite_draws (s : State) : (s.dropWrite).draws = s.draws := rfl
@[simp] theorem State.dropWrite_script (s : State) : (s.dropWrite).script = s.script := rfl
@[simp] theorem State.dropWrite_rdata (s : State) : (s.dropWrite).rdata = s.rdata := rfl

/-! ### resetRegisters -/

@[simp] theorem State.resetRegisters_params (s : State) : (s.resetRegisters).params = s.params := rfl
@[simp] theorem State.resetRegisters_b (s : State) : (s.resetRegisters).b = Vector.replicate 8 0#128 := rfl
@[simp] theorem State.resetRegisters_ki (s : State) : (s.resetRegisters).ki = 0#128 := rfl
@[simp] theorem State.resetRegisters_kj (s : State) : (s.resetRegisters).kj = 0#128 := rfl
@[simp] theorem State.resetRegisters_kl (s : State) : (s.resetRegisters).kl = 0#128 := rfl
@[simp] theorem State.resetRegisters_kw (s : State) : (s.resetRegisters).kw = 0#3 := rfl
@[simp] theorem State.resetRegisters_rk (s : State) : (s.resetRegisters).rk = Vector.replicate 4 0#128 := rfl
@[simp] theorem State.resetRegisters_delta (s : State) : (s.resetRegisters).delta = 0#128 := rfl
@[simp] theorem State.resetRegisters_hashv (s : State) : (s.resetRegisters).hashv = false := rfl
@[simp] theorem State.resetRegisters_arg (s : State) : (s.resetRegisters).arg = Vector.replicate 4 0#32 := rfl
@[simp] theorem State.resetRegisters_cmd (s : State) : (s.resetRegisters).cmd = 0#32 := rfl
@[simp] theorem State.resetRegisters_errcmd (s : State) : (s.resetRegisters).errcmd = 0#32 := rfl
@[simp] theorem State.resetRegisters_irqEn (s : State) : (s.resetRegisters).irqEn = false := rfl
@[simp] theorem State.resetRegisters_done (s : State) : (s.resetRegisters).done = false := rfl
@[simp] theorem State.resetRegisters_err (s : State) : (s.resetRegisters).err = false := rfl
@[simp] theorem State.resetRegisters_ovr (s : State) : (s.resetRegisters).ovr = false := rfl
@[simp] theorem State.resetRegisters_errcode (s : State) : (s.resetRegisters).errcode = 0#8 := rfl
@[simp] theorem State.resetRegisters_pending (s : State) : (s.resetRegisters).pending = none := rfl
@[simp] theorem State.resetRegisters_dmem (s : State) : (s.resetRegisters).dmem = s.dmem := rfl
@[simp] theorem State.resetRegisters_epoch (s : State) : (s.resetRegisters).epoch = s.epoch := rfl
@[simp] theorem State.resetRegisters_draws (s : State) : (s.resetRegisters).draws = s.draws := rfl
@[simp] theorem State.resetRegisters_script (s : State) : (s.resetRegisters).script = s.script := rfl
@[simp] theorem State.resetRegisters_rdata (s : State) : (s.resetRegisters).rdata = s.rdata := rfl

/-! ### setKey -/

@[simp] theorem State.setKey_params (s : State) (k : KeyName) (v : Block) :
    (s.setKey k v).params = s.params := by cases k <;> rfl
@[simp] theorem State.setKey_b (s : State) (k : KeyName) (v : Block) : (s.setKey k v).b = s.b := by cases k <;> rfl
@[simp] theorem State.setKey_kw (s : State) (k : KeyName) (v : Block) :
    (s.setKey k v).kw = s.kw ||| k.bit := by cases k <;> rfl
@[simp] theorem State.setKey_rk (s : State) (k : KeyName) (v : Block) : (s.setKey k v).rk = s.rk := by cases k <;> rfl
@[simp] theorem State.setKey_delta (s : State) (k : KeyName) (v : Block) :
    (s.setKey k v).delta = s.delta := by cases k <;> rfl
@[simp] theorem State.setKey_hashv (s : State) (k : KeyName) (v : Block) :
    (s.setKey k v).hashv = s.hashv := by cases k <;> rfl
@[simp] theorem State.setKey_arg (s : State) (k : KeyName) (v : Block) :
    (s.setKey k v).arg = s.arg := by cases k <;> rfl
@[simp] theorem State.setKey_cmd (s : State) (k : KeyName) (v : Block) :
    (s.setKey k v).cmd = s.cmd := by cases k <;> rfl
@[simp] theorem State.setKey_errcmd (s : State) (k : KeyName) (v : Block) :
    (s.setKey k v).errcmd = s.errcmd := by cases k <;> rfl
@[simp] theorem State.setKey_irqEn (s : State) (k : KeyName) (v : Block) :
    (s.setKey k v).irqEn = s.irqEn := by cases k <;> rfl
@[simp] theorem State.setKey_done (s : State) (k : KeyName) (v : Block) :
    (s.setKey k v).done = s.done := by cases k <;> rfl
@[simp] theorem State.setKey_err (s : State) (k : KeyName) (v : Block) :
    (s.setKey k v).err = s.err := by cases k <;> rfl
@[simp] theorem State.setKey_ovr (s : State) (k : KeyName) (v : Block) :
    (s.setKey k v).ovr = s.ovr := by cases k <;> rfl
@[simp] theorem State.setKey_errcode (s : State) (k : KeyName) (v : Block) :
    (s.setKey k v).errcode = s.errcode := by cases k <;> rfl
@[simp] theorem State.setKey_pending (s : State) (k : KeyName) (v : Block) :
    (s.setKey k v).pending = s.pending := by cases k <;> rfl
@[simp] theorem State.setKey_dmem (s : State) (k : KeyName) (v : Block) :
    (s.setKey k v).dmem = s.dmem := by cases k <;> rfl
@[simp] theorem State.setKey_epoch (s : State) (k : KeyName) (v : Block) :
    (s.setKey k v).epoch = s.epoch := by cases k <;> rfl
@[simp] theorem State.setKey_draws (s : State) (k : KeyName) (v : Block) :
    (s.setKey k v).draws = s.draws := by cases k <;> rfl
@[simp] theorem State.setKey_script (s : State) (k : KeyName) (v : Block) :
    (s.setKey k v).script = s.script := by cases k <;> rfl
@[simp] theorem State.setKey_rdata (s : State) (k : KeyName) (v : Block) :
    (s.setKey k v).rdata = s.rdata := by cases k <;> rfl

@[simp] theorem State.setKey_ki_ki (s : State) (v : Block) : (s.setKey .ki v).ki = v := rfl
@[simp] theorem State.setKey_ki_kj (s : State) (v : Block) : (s.setKey .ki v).kj = s.kj := rfl
@[simp] theorem State.setKey_ki_kl (s : State) (v : Block) : (s.setKey .ki v).kl = s.kl := rfl
@[simp] theorem State.setKey_kj_ki (s : State) (v : Block) : (s.setKey .kj v).ki = s.ki := rfl
@[simp] theorem State.setKey_kj_kj (s : State) (v : Block) : (s.setKey .kj v).kj = v := rfl
@[simp] theorem State.setKey_kj_kl (s : State) (v : Block) : (s.setKey .kj v).kl = s.kl := rfl
@[simp] theorem State.setKey_kl_ki (s : State) (v : Block) : (s.setKey .kl v).ki = s.ki := rfl
@[simp] theorem State.setKey_kl_kj (s : State) (v : Block) : (s.setKey .kl v).kj = s.kj := rfl
@[simp] theorem State.setKey_kl_kl (s : State) (v : Block) : (s.setKey .kl v).kl = v := rfl

/-! ### abortPending -/

@[simp] theorem State.abortPending_params (s : State) :
    (s.abortPending).params = s.params := by unfold State.abortPending; split <;> rfl
@[simp] theorem State.abortPending_b (s : State) :
    (s.abortPending).b = s.b := by unfold State.abortPending; split <;> rfl
@[simp] theorem State.abortPending_ki (s : State) :
    (s.abortPending).ki = s.ki := by unfold State.abortPending; split <;> rfl
@[simp] theorem State.abortPending_kj (s : State) :
    (s.abortPending).kj = s.kj := by unfold State.abortPending; split <;> rfl
@[simp] theorem State.abortPending_kl (s : State) :
    (s.abortPending).kl = s.kl := by unfold State.abortPending; split <;> rfl
@[simp] theorem State.abortPending_kw (s : State) :
    (s.abortPending).kw = s.kw := by unfold State.abortPending; split <;> rfl
@[simp] theorem State.abortPending_rk (s : State) :
    (s.abortPending).rk = s.rk := by unfold State.abortPending; split <;> rfl
@[simp] theorem State.abortPending_delta (s : State) :
    (s.abortPending).delta = s.delta := by unfold State.abortPending; split <;> rfl
@[simp] theorem State.abortPending_hashv (s : State) :
    (s.abortPending).hashv = s.hashv := by unfold State.abortPending; split <;> rfl
@[simp] theorem State.abortPending_arg (s : State) :
    (s.abortPending).arg = s.arg := by unfold State.abortPending; split <;> rfl
@[simp] theorem State.abortPending_cmd (s : State) :
    (s.abortPending).cmd = s.cmd := by unfold State.abortPending; split <;> rfl
@[simp] theorem State.abortPending_errcmd (s : State) :
    (s.abortPending).errcmd = s.errcmd := by unfold State.abortPending; split <;> rfl
@[simp] theorem State.abortPending_irqEn (s : State) :
    (s.abortPending).irqEn = s.irqEn := by unfold State.abortPending; split <;> rfl
@[simp] theorem State.abortPending_done (s : State) :
    (s.abortPending).done = s.done := by unfold State.abortPending; split <;> rfl
@[simp] theorem State.abortPending_err (s : State) :
    (s.abortPending).err = s.err := by unfold State.abortPending; split <;> rfl
@[simp] theorem State.abortPending_ovr (s : State) :
    (s.abortPending).ovr = s.ovr := by unfold State.abortPending; split <;> rfl
@[simp] theorem State.abortPending_errcode (s : State) :
    (s.abortPending).errcode = s.errcode := by unfold State.abortPending; split <;> rfl
@[simp] theorem State.abortPending_pending (s : State) :
    (s.abortPending).pending = s.pending := by unfold State.abortPending; split <;> rfl
@[simp] theorem State.abortPending_epoch (s : State) :
    (s.abortPending).epoch = s.epoch := by unfold State.abortPending; split <;> rfl
@[simp] theorem State.abortPending_script (s : State) :
    (s.abortPending).script = s.script := by unfold State.abortPending; split <;> rfl
@[simp] theorem State.abortPending_rdata (s : State) :
    (s.abortPending).rdata = s.rdata := by unfold State.abortPending; split <;> rfl

/-! ### softReset -/

@[simp] theorem State.softReset_params (s : State) : (s.softReset).params = s.params := by simp [State.softReset]
@[simp] theorem State.softReset_b (s : State) : (s.softReset).b = Vector.replicate 8 0#128 := rfl
@[simp] theorem State.softReset_ki (s : State) : (s.softReset).ki = 0#128 := rfl
@[simp] theorem State.softReset_kj (s : State) : (s.softReset).kj = 0#128 := rfl
@[simp] theorem State.softReset_kl (s : State) : (s.softReset).kl = 0#128 := rfl
@[simp] theorem State.softReset_kw (s : State) : (s.softReset).kw = 0#3 := rfl
@[simp] theorem State.softReset_rk (s : State) : (s.softReset).rk = Vector.replicate 4 0#128 := rfl
@[simp] theorem State.softReset_delta (s : State) : (s.softReset).delta = 0#128 := rfl
@[simp] theorem State.softReset_hashv (s : State) : (s.softReset).hashv = false := rfl
@[simp] theorem State.softReset_arg (s : State) : (s.softReset).arg = Vector.replicate 4 0#32 := rfl
@[simp] theorem State.softReset_cmd (s : State) : (s.softReset).cmd = 0#32 := rfl
@[simp] theorem State.softReset_errcmd (s : State) : (s.softReset).errcmd = 0#32 := rfl
@[simp] theorem State.softReset_irqEn (s : State) : (s.softReset).irqEn = false := rfl
@[simp] theorem State.softReset_done (s : State) : (s.softReset).done = false := rfl
@[simp] theorem State.softReset_err (s : State) : (s.softReset).err = false := rfl
@[simp] theorem State.softReset_ovr (s : State) : (s.softReset).ovr = false := rfl
@[simp] theorem State.softReset_errcode (s : State) : (s.softReset).errcode = 0#8 := rfl
@[simp] theorem State.softReset_pending (s : State) : (s.softReset).pending = none := rfl
@[simp] theorem State.softReset_dmem (s : State) : (s.softReset).dmem = s.abortPending.dmem := rfl
@[simp] theorem State.softReset_epoch (s : State) : (s.softReset).epoch = s.epoch := by simp [State.softReset]
@[simp] theorem State.softReset_draws (s : State) : (s.softReset).draws = s.abortPending.draws := rfl
@[simp] theorem State.softReset_script (s : State) : (s.softReset).script = s.script := by simp [State.softReset]
@[simp] theorem State.softReset_rdata (s : State) : (s.softReset).rdata = s.rdata := by simp [State.softReset]

/-! ### hardReset -/

@[simp] theorem State.hardReset_params (s : State) : (s.hardReset).params = s.params := rfl
@[simp] theorem State.hardReset_b (s : State) : (s.hardReset).b = Vector.replicate 8 0#128 := rfl
@[simp] theorem State.hardReset_ki (s : State) : (s.hardReset).ki = 0#128 := rfl
@[simp] theorem State.hardReset_kj (s : State) : (s.hardReset).kj = 0#128 := rfl
@[simp] theorem State.hardReset_kl (s : State) : (s.hardReset).kl = 0#128 := rfl
@[simp] theorem State.hardReset_kw (s : State) : (s.hardReset).kw = 0#3 := rfl
@[simp] theorem State.hardReset_rk (s : State) : (s.hardReset).rk = Vector.replicate 4 0#128 := rfl
@[simp] theorem State.hardReset_delta (s : State) : (s.hardReset).delta = 0#128 := rfl
@[simp] theorem State.hardReset_hashv (s : State) : (s.hardReset).hashv = false := rfl
@[simp] theorem State.hardReset_arg (s : State) : (s.hardReset).arg = Vector.replicate 4 0#32 := rfl
@[simp] theorem State.hardReset_cmd (s : State) : (s.hardReset).cmd = 0#32 := rfl
@[simp] theorem State.hardReset_errcmd (s : State) : (s.hardReset).errcmd = 0#32 := rfl
@[simp] theorem State.hardReset_irqEn (s : State) : (s.hardReset).irqEn = false := rfl
@[simp] theorem State.hardReset_done (s : State) : (s.hardReset).done = false := rfl
@[simp] theorem State.hardReset_err (s : State) : (s.hardReset).err = false := rfl
@[simp] theorem State.hardReset_ovr (s : State) : (s.hardReset).ovr = false := rfl
@[simp] theorem State.hardReset_errcode (s : State) : (s.hardReset).errcode = 0#8 := rfl
@[simp] theorem State.hardReset_pending (s : State) : (s.hardReset).pending = none := rfl
@[simp] theorem State.hardReset_dmem (s : State) : (s.hardReset).dmem = [] := rfl
@[simp] theorem State.hardReset_epoch (s : State) : (s.hardReset).epoch = s.epoch + 1 := rfl
@[simp] theorem State.hardReset_draws (s : State) : (s.hardReset).draws = s.draws := rfl
@[simp] theorem State.hardReset_script (s : State) : (s.hardReset).script = s.script := rfl
@[simp] theorem State.hardReset_rdata (s : State) : (s.hardReset).rdata = s.rdata := rfl

/-! ### placeCommand -/

@[simp] theorem State.placeCommand_params (s : State) (v : Word) : (s.placeCommand v).params = s.params := rfl
@[simp] theorem State.placeCommand_b (s : State) (v : Word) : (s.placeCommand v).b = s.b := rfl
@[simp] theorem State.placeCommand_ki (s : State) (v : Word) : (s.placeCommand v).ki = s.ki := rfl
@[simp] theorem State.placeCommand_kj (s : State) (v : Word) : (s.placeCommand v).kj = s.kj := rfl
@[simp] theorem State.placeCommand_kl (s : State) (v : Word) : (s.placeCommand v).kl = s.kl := rfl
@[simp] theorem State.placeCommand_kw (s : State) (v : Word) : (s.placeCommand v).kw = s.kw := rfl
@[simp] theorem State.placeCommand_rk (s : State) (v : Word) : (s.placeCommand v).rk = s.rk := rfl
@[simp] theorem State.placeCommand_delta (s : State) (v : Word) : (s.placeCommand v).delta = s.delta := rfl
@[simp] theorem State.placeCommand_hashv (s : State) (v : Word) : (s.placeCommand v).hashv = s.hashv := rfl
@[simp] theorem State.placeCommand_arg (s : State) (v : Word) : (s.placeCommand v).arg = s.arg := rfl
@[simp] theorem State.placeCommand_cmd (s : State) (v : Word) : (s.placeCommand v).cmd = v := rfl
@[simp] theorem State.placeCommand_errcmd (s : State) (v : Word) : (s.placeCommand v).errcmd = s.errcmd := rfl
@[simp] theorem State.placeCommand_irqEn (s : State) (v : Word) : (s.placeCommand v).irqEn = s.irqEn := rfl
@[simp] theorem State.placeCommand_done (s : State) (v : Word) : (s.placeCommand v).done = false := rfl
@[simp] theorem State.placeCommand_err (s : State) (v : Word) : (s.placeCommand v).err = false := rfl
@[simp] theorem State.placeCommand_ovr (s : State) (v : Word) : (s.placeCommand v).ovr = s.ovr := rfl
@[simp] theorem State.placeCommand_errcode (s : State) (v : Word) : (s.placeCommand v).errcode = 0x00#8 := rfl
@[simp] theorem State.placeCommand_pending (s : State) (v : Word) :
    (s.placeCommand v).pending = some { cw := v, arg := s.arg } := rfl
@[simp] theorem State.placeCommand_dmem (s : State) (v : Word) : (s.placeCommand v).dmem = s.dmem := rfl
@[simp] theorem State.placeCommand_epoch (s : State) (v : Word) : (s.placeCommand v).epoch = s.epoch := rfl
@[simp] theorem State.placeCommand_draws (s : State) (v : Word) : (s.placeCommand v).draws = s.draws := rfl
@[simp] theorem State.placeCommand_script (s : State) (v : Word) :
    (s.placeCommand v).script = .engine :: s.script := rfl
@[simp] theorem State.placeCommand_rdata (s : State) (v : Word) : (s.placeCommand v).rdata = s.rdata := rfl

end Sys2Proof.Machine
end

