-- ==== Sys2Proof/Laws/Memory.lean ====
section
/-! SUPPORT. The laws of DMEM: read after write, writes elsewhere, and the canonical form. -/

namespace Sys2Proof.Machine

/-- Read after write, at the same address and elsewhere. -/
theorem Memory.lookup_insert (m : Memory) (a x : Nat) (v : Byte) :
    (m.insert a v).lookup x = if x = a then some v else m.lookup x := by
  induction m with
  | nil => simp only [Memory.insert, Memory.lookup, eq_comm]
  | cons c rest ih =>
    obtain ⟨k, u⟩ := c
    simp only [Memory.insert]
    split
    · simp only [Memory.lookup, eq_comm]
    · split
      · next h =>
        subst h
        by_cases hx : x = a
        · simp [Memory.lookup, hx]
        · simp [Memory.lookup, hx, Ne.symm hx]
      · next h1 h2 =>
        simp only [Memory.lookup, ih]
        by_cases hk : k = x
        · subst hk; simp [Ne.symm h2]
        · simp [hk]

/-- The head of a canonical memory lies below every other address of it. -/
theorem Memory.wf_cons (k : Nat) (u : Byte) (m : Memory) :
    Memory.wf ((k, u) :: m) = true ↔ (∀ c ∈ m, k < c.1) ∧ m.wf = true := by
  induction m generalizing k u with
  | nil => simp [Memory.wf]
  | cons c rest ih =>
    obtain ⟨l, v⟩ := c
    simp only [Memory.wf, Bool.and_eq_true, decide_eq_true_eq, List.mem_cons, forall_eq_or_imp]
    constructor
    · rintro ⟨hkl, hr⟩
      exact ⟨⟨hkl, fun c hc => lt_trans hkl (((ih l v).mp hr).1 c hc)⟩, hr⟩
    · rintro ⟨⟨hkl, _⟩, hr⟩
      exact ⟨hkl, hr⟩

theorem Memory.mem_insert (m : Memory) (a : Nat) (v : Byte) (c : Host.Cell) (h : c ∈ m.insert a v) :
    c = (a, v) ∨ c ∈ m := by
  induction m with
  | nil => simpa [Memory.insert] using h
  | cons d rest ih =>
    obtain ⟨k, u⟩ := d
    simp only [Memory.insert] at h
    split at h
    · rcases List.mem_cons.mp h with h | h
      · exact Or.inl h
      · exact Or.inr h
    · split at h
      · rcases List.mem_cons.mp h with h | h
        · exact Or.inl h
        · exact Or.inr (List.mem_cons_of_mem _ h)
      · rcases List.mem_cons.mp h with h | h
        · exact Or.inr (h ▸ List.mem_cons_self)
        · exact (ih h).imp id (List.mem_cons_of_mem _)

/-- A write keeps the canonical form. -/
theorem Memory.wf_insert (m : Memory) (hm : m.wf = true) (a : Nat) (v : Byte) : (m.insert a v).wf = true := by
  induction m with
  | nil => rfl
  | cons d rest ih =>
    obtain ⟨k, u⟩ := d
    obtain ⟨hk, hr⟩ := (Memory.wf_cons k u rest).mp hm
    simp only [Memory.insert]
    split
    · next h =>
      refine (Memory.wf_cons _ _ _).mpr ⟨?_, hm⟩
      intro c hc
      rcases List.mem_cons.mp hc with hc | hc
      · exact hc ▸ h
      · exact lt_trans h (hk c hc)
    · split
      · next h => subst h; exact (Memory.wf_cons _ _ _).mpr ⟨hk, hr⟩
      · next h1 h2 =>
        refine (Memory.wf_cons _ _ _).mpr ⟨?_, ih hr⟩
        intro c hc
        rcases Memory.mem_insert rest a v c hc with hc | hc
        · subst hc; exact lt_of_le_of_ne (Nat.le_of_not_lt h1) (Ne.symm h2)
        · exact hk c hc

/-- A write of a byte string keeps the canonical form. -/
theorem Memory.wf_insertBytes (l : List Byte) (m : Memory) (hm : m.wf = true) (a : Nat) :
    (m.insertBytes a l).wf = true := by
  induction l generalizing m a with
  | nil => exact hm
  | cons v vs ih => exact ih _ (Memory.wf_insert m hm a v) _

/-- What a byte string written at `a` leaves at `x`. -/
theorem Memory.lookup_insertBytes (l : List Byte) (m : Memory) (a x : Nat) :
    (m.insertBytes a l).lookup x = if a ≤ x ∧ x < a + l.length then l[x - a]? else m.lookup x := by
  induction l generalizing m a with
  | nil => simp [Memory.insertBytes, show ¬(a ≤ x ∧ x < a) by omega]
  | cons v vs ih =>
    simp only [Memory.insertBytes, List.length_cons]
    rw [ih, Memory.lookup_insert]
    by_cases hx : x = a
    · subst hx; simp
    · by_cases h : a + 1 ≤ x ∧ x < a + 1 + vs.length
      · have e : x - a = (x - (a + 1)) + 1 := by omega
        rw [if_pos h, if_pos (by omega), e, List.getElem?_cons_succ]
      · rw [if_neg h, if_neg hx, if_neg (by omega)]

theorem Memory.below_iff (m : Memory) (n : Nat) : m.below n = true ↔ ∀ c ∈ m, c.1 < n := by
  simp [Memory.below]

theorem Memory.below_insert (m : Memory) (n a : Nat) (v : Byte) (hm : m.below n = true) (ha : a < n) :
    (m.insert a v).below n = true := by
  rw [Memory.below_iff] at hm ⊢
  intro c hc
  rcases Memory.mem_insert m a v c hc with hc | hc
  · subst hc; exact ha
  · exact hm c hc

/-- A byte string written below `n` leaves every written address below `n`. -/
theorem Memory.below_insertBytes (l : List Byte) (m : Memory) (n a : Nat) (hm : m.below n = true)
    (ha : a + l.length ≤ n) : (m.insertBytes a l).below n = true := by
  induction l generalizing m a with
  | nil => exact hm
  | cons v vs ih =>
    simp only [List.length_cons] at ha
    exact ih _ _ (Memory.below_insert m n a v hm (by omega)) (by omega)

/-- Every byte after `MemWrite`: the written one inside the range, as before outside it. -/
theorem State.readByte_memWrite (s : State) (a x : Nat) (l : List Byte) :
    (s.memWrite a l).readByte x = if a ≤ x ∧ x < a + l.length then l.getD (x - a) 0#8 else s.readByte x := by
  simp only [State.readByte, State.memWrite_dmem, State.memWrite_epoch, Memory.lookup_insertBytes]
  split
  · next h => simp [List.getD_eq_getElem?_getD, List.getElem?_eq_getElem (show x - a < l.length by omega)]
  · rfl

/-- `MemRead` gives as many bytes as it is asked for. -/
@[simp] theorem State.length_memRead (s : State) (a n : Nat) : (s.memRead a n).length = n := by simp [State.memRead]

/-- Reading back what `MemWrite` wrote. -/
theorem State.memRead_memWrite_same (s : State) (a : Nat) (l : List Byte) :
    (s.memWrite a l).memRead a l.length = l := by
  apply List.ext_getElem (by simp)
  intro k h1 h2
  simp [State.memRead, State.readByte_memWrite, h2]

/-- `MemRead` depends only on the bytes read. -/
theorem State.memRead_congr (s t : State) (h : ∀ x, t.readByte x = s.readByte x) (a n : Nat) :
    t.memRead a n = s.memRead a n := by
  simp [State.memRead, h]

end Sys2Proof.Machine
end

