-- ==== Sys2Proof/Laws/Ops.lean ====
section
/-! SUPPORT. What the shared operations can do, said once each. -/

namespace Sys2Proof.Machine

/-! ### Registers -/

@[simp] theorem State.getB_setB_same (s : State) (n : Reg) (v : Block) : (s.setB n v).getB n = v := by
  simp [State.getB]

theorem State.getB_setB_other (s : State) (n m : Reg) (v : Block) (h : m ≠ n) : (s.setB n v).getB m = s.getB m := by
  have : (n : Nat) ≠ m := fun e => h (Fin.ext e.symm)
  simp [State.getB, this]

@[simp] theorem State.getRk_setRk_same (s : State) (n : Fin 4) (v : Block) : (s.setRk n v).getRk n = v := by
  simp [State.getRk]

theorem State.getRk_setRk_other (s : State) (n m : Fin 4) (v : Block) (h : m ≠ n) :
    (s.setRk n v).getRk m = s.getRk m := by
  have : (n : Nat) ≠ m := fun e => h (Fin.ext e.symm)
  simp [State.getRk, this]

@[simp] theorem State.getRk_setRkAll (s : State) (m : Fin 4) (v : Block) : (s.setRkAll v).getRk m = v := by
  simp [State.getRk]

@[simp] theorem State.getKey_setKey_same (s : State) (k : KeyName) (v : Block) : (s.setKey k v).getKey k = v := by
  cases k <;> rfl

theorem State.getKey_setKey_other (s : State) (k m : KeyName) (v : Block) (h : m ≠ k) :
    (s.setKey k v).getKey m = s.getKey m := by
  cases k <;> cases m <;> first | rfl | exact absurd rfl h

/-! ### The ordered checks -/

theorem firstError_none_iff (l : List (Bool × ErrCode)) : firstError l = none ↔ ∀ c ∈ l, c.1 = false := by
  induction l with
  | nil => simp [firstError]
  | cons c rest ih =>
    obtain ⟨b, e⟩ := c
    cases b <;> simp [firstError, ih]

/-- An error is reported only if its own condition holds and none listed before it does. -/
theorem firstError_some (l : List (Bool × ErrCode)) (e : ErrCode) (h : firstError l = some e) :
    ∃ before after, l = before ++ (true, e) :: after ∧ ∀ c ∈ before, c.1 = false := by
  induction l with
  | nil => simp [firstError] at h
  | cons c rest ih =>
    obtain ⟨b, e'⟩ := c
    cases b with
    | true =>
      simp only [firstError, if_true, Option.some.injEq] at h
      exact ⟨[], rest, by simp [h], by simp⟩
    | false =>
      simp only [firstError, Bool.false_eq_true, if_false] at h
      obtain ⟨bs, as, hl, hb⟩ := ih h
      exact ⟨(false, e') :: bs, as, by simp [hl], by simpa using hb⟩

/-! ### Completion -/

/-- Everything `finish` can do. -/
theorem finish_cases (s t : State) (checks : List (Bool × ErrCode)) :
    (∃ e, firstError checks = some e ∧ finish s checks t = .next (s.raiseError e)) ∨
    (firstError checks = none ∧ finish s checks t = .next t.complete) := by
  unfold finish
  cases h : firstError checks with
  | none => exact Or.inr ⟨rfl, rfl⟩
  | some e => exact Or.inl ⟨e, rfl, rfl⟩

theorem finish_of_pass (s t : State) (checks : List (Bool × ErrCode)) (h : ∀ c ∈ checks, c.1 = false) :
    finish s checks t = .next t.complete := by
  rw [finish, (firstError_none_iff checks).mpr h]

theorem finish_of_error (s t : State) (checks : List (Bool × ErrCode)) (e : ErrCode) (h : firstError checks = some e) :
    finish s checks t = .next (s.raiseError e) := by
  rw [finish, h]

/-- Everything an error completion does (R304, R305, R312). -/
theorem failed_raiseError (s : State) (e : ErrCode) : Failed e s (s.raiseError e) where
  kept := ⟨rfl, rfl, rfl, rfl, rfl, rfl, rfl, rfl, rfl⟩
  busy := rfl
  done := rfl
  errcode := rfl
  err := rfl
  errcmd := rfl
  blocks _ := rfl
  keys := ⟨rfl, rfl, rfl, rfl⟩
  rk _ := rfl
  delta := ⟨rfl, rfl⟩
  mem _ := rfl

/-- Everything the successful completion of a block-register write does. -/
theorem writesBlock_setB (s : State) (rd : Reg) (v : Block) : WritesBlock rd v s (s.setB rd v).complete where
  result := State.getB_setB_same s rd v
  blocks n hn := State.getB_setB_other s rd n v hn
  keys := ⟨rfl, rfl, rfl, rfl⟩
  rk _ := rfl
  delta := ⟨rfl, rfl⟩
  mem _ := rfl
  flags := ⟨⟨rfl, rfl, rfl, rfl, rfl, rfl, rfl, rfl, rfl⟩, rfl, rfl, rfl, rfl, rfl⟩

/-- Everything the successful completion of a DELTA load does. -/
theorem writesDelta_loadDelta (s : State) (v : Block) : WritesDelta v s (s.loadDelta v).complete where
  result := rfl
  hashv := rfl
  blocks _ := rfl
  keys := ⟨rfl, rfl, rfl, rfl⟩
  rk _ := rfl
  mem _ := rfl
  flags := ⟨⟨rfl, rfl, rfl, rfl, rfl, rfl, rfl, rfl, rfl⟩, rfl, rfl, rfl, rfl, rfl⟩

/-- Everything the successful completion of a DMEM write does. -/
theorem writesMem_memWrite (s : State) (a : Nat) (l : List Byte) : WritesMem a l s (s.memWrite a l).complete where
  stored := State.memRead_memWrite_same s a l
  mem x hx := by
    have := State.readByte_memWrite s a x l
    rw [if_neg hx] at this
    exact this
  blocks _ := rfl
  keys := ⟨rfl, rfl, rfl, rfl⟩
  rk _ := rfl
  delta := ⟨rfl, rfl⟩
  flags := ⟨⟨rfl, rfl, rfl, rfl, rfl, rfl, rfl, rfl, rfl⟩, rfl, rfl, rfl, rfl, rfl⟩

/-! ### The step -/

/-- Everything the engine's turn can do (R312). -/
theorem engineTurn_cases (s : State) :
    (s.pending = none ∧ s.engineTurn = .next s) ∨
    (∃ p i, s.pending = some p ∧ decode p.cw = .ok i ∧ s.engineTurn = exec i s) ∨
    (∃ p r, s.pending = some p ∧ decode p.cw = .error r ∧ s.engineTurn = .next (s.raiseError .illegal)) := by
  unfold State.engineTurn
  cases hp : s.pending with
  | none => exact Or.inl ⟨rfl, rfl⟩
  | some p =>
    cases hd : decode p.cw with
    | ok i => exact Or.inr (Or.inl ⟨p, i, rfl, hd, by simp [State.runWord, hd]⟩)
    | error r => exact Or.inr (Or.inr ⟨p, r, rfl, hd, by simp [State.runWord, hd]⟩)

/-- Everything a step can do: the engine's turn with no move left, the engine's turn from the script, a hard reset, an
admitted host access, or, the host being stuck, the engine's completion or a fault. -/
theorem step_cases (s : State) :
    (s.script = [] ∧ step s = s.engineTurn) ∨
    (∃ rest, s.script = .engine :: rest ∧ step s = { s with script := rest }.engineTurn) ∨
    (∃ rest, s.script = .hardReset :: rest ∧ step s = .next { s with script := rest }.hardReset) ∨
    (∃ a rest, s.script = .access a :: rest ∧ a.admitted s.params = true ∧
      step s = .next ({ s with script := rest }.hostAccess a)) ∨
    (∃ a rest, s.script = .access a :: rest ∧ a.admitted s.params = false ∧ s.busy = true ∧ step s = s.engineTurn) ∨
    (∃ a rest, s.script = .access a :: rest ∧ a.admitted s.params = false ∧ s.busy = false ∧
      step s = .fault (stuckReason s.params a)) := by
  unfold step agentStep
  cases hs : s.script with
  | nil => exact Or.inl ⟨rfl, rfl⟩
  | cons ev rest =>
    refine Or.inr ?_
    cases ev with
    | engine => exact Or.inl ⟨rest, rfl, rfl⟩
    | hardReset => exact Or.inr (Or.inl ⟨rest, rfl, rfl⟩)
    | access a =>
      refine Or.inr (Or.inr ?_)
      simp only [State.hostTurn]
      cases ha : a.admitted s.params with
      | true => exact Or.inl ⟨a, rest, rfl, ha, by simp⟩
      | false =>
        refine Or.inr ?_
        cases hb : s.busy with
        | true => exact Or.inl ⟨a, rest, rfl, ha, rfl, by simp⟩
        | false => exact Or.inr ⟨a, rest, rfl, ha, rfl, by simp⟩

/-- On every path to a completion the step is the engine's turn, the script as it leaves it. -/
theorem step_engineNext (s : State) (rest : List Event) (hb : s.busy = true) (h : EngineNext s rest) :
    step s = { s with script := rest }.engineTurn := by
  have same : ∀ r, s.script = r → { s with script := r } = s := by
    rintro r rfl
    rfl
  rcases h with ⟨hs, rfl⟩ | hs | ⟨a, more, hs, ha, rfl⟩
  · rw [same _ hs, step, agentStep, hs]
  · rw [step, agentStep, hs]
  · rw [same _ rfl, step, agentStep, hs]
    simp [State.hostTurn, ha, hb]

end Sys2Proof.Machine
end

