-- ==== Sys2Proof/Laws/Commands.lean ====
section
/-! SUPPORT. The commands' checks as propositions, what every command can do, and the lengths of the strings PRF, ENC and
DEC write. Cite these before unfolding a check: once an operand accessor is unfolded inside a `decide`, rewriting by
`decide_eq_true_eq` no longer applies. -/

namespace Sys2Proof.Machine

/-! ### The conditions of the checks -/

theorem State.keyv_iff (s : State) : s.keyv = true ↔ s.kw = 0b111#3 := by simp [State.keyv]

theorem State.keyv_eq_false_iff (s : State) : s.keyv = false ↔ s.kw ≠ 0b111#3 := by
  rw [← Bool.not_eq_true, State.keyv_iff]

theorem State.outOfRange_iff (s : State) (a n : Nat) : s.outOfRange a n = true ↔ a + n > s.params.dmemSize := by
  simp [State.outOfRange]

theorem State.outOfRange_eq_false_iff (s : State) (a n : Nat) :
    s.outOfRange a n = false ↔ a + n ≤ s.params.dmemSize := by simp [State.outOfRange]

theorem overlaps_iff (src dst m : Nat) :
    overlaps src dst m = true ↔ src ≠ dst ∧ src < dst + m ∧ dst < src + m := by simp [overlaps]

theorem legalTweak_iff (i : Int) (j : Nat) :
    legalTweak i j = true ↔ -1 ≤ i ∧ ¬((i = 1 ∨ i = 2) ∧ j = 0) := by
  simp only [legalTweak, Bool.and_eq_true, Bool.not_eq_true', decide_eq_true_eq, Bool.and_eq_false_iff,
    decide_eq_false_iff_not]
  tauto

/-- The tweak operands as they stand in the sampled ARG registers. -/
theorem State.legalTweak_issued (s : State) :
    legalTweak s.tweakI s.tweakJ = true ↔ -1 ≤ s.issued.arg[(1 : Fin 4)].toInt ∧
      ¬((s.issued.arg[(1 : Fin 4)].toInt = 1 ∨ s.issued.arg[(1 : Fin 4)].toInt = 2) ∧
        s.issued.arg[(0 : Fin 4)] = 0#32) := by
  have e : s.tweakJ = 0 ↔ s.issued.arg[(0 : Fin 4)] = 0#32 := by
    simp [State.tweakJ, State.zextArg, BitVec.toNat_eq]
  rw [legalTweak_iff, e]
  rfl

/-! ### Each command as its checks and its writes -/

theorem exec_nop (s : State) : exec .nop s = finish s [] s := rfl

theorem exec_dbl (rd ra : Reg) (s : State) : exec (.dbl rd ra) s = finish s [] (s.setB rd (dbl (s.getB ra))) := rfl

theorem exec_xor (rd ra rb : Reg) (s : State) :
    exec (.xor rd ra rb) s = finish s [] (s.setB rd (s.getB ra ^^^ s.getB rb)) := rfl

theorem exec_muli (rd ra : Reg) (s : State) :
    exec (.muli rd ra) s = finish s [] (s.setB rd (gfMul s.muliFactor (s.getB ra))) := rfl

theorem exec_aesr (rd ra rb : Reg) (s : State) :
    exec (.aesr rd ra rb) s = finish s [] (s.setB rd (aesRound (s.getB ra) (s.getB rb))) := rfl

theorem exec_aes4 (rd ra : Reg) (s : State) :
    exec (.aes4 rd ra) s
      = finish s [] (s.setB rd (aes4 (s.getRk 0) (s.getRk 1) (s.getRk 2) (s.getRk 3) (s.getB ra))) := rfl

theorem exec_ldrk_one (ra : Reg) (f : Fin 4) (s : State) :
    exec (.ldrk ra f false) s = finish s [(false, .illegal)] (s.setRk f (s.getB ra)) := rfl

theorem exec_ldrk_all (ra : Reg) (f : Fin 4) (s : State) :
    exec (.ldrk ra f true) s = finish s [(f != 0, .illegal)] (s.setRkAll (s.getB ra)) := rfl

theorem exec_ldkey_some (ra : Reg) (f : Fin 4) (k : KeyName) (h : keySelect f = some k) (s : State) :
    exec (.ldkey ra f) s = finish s [] (s.setKey k (s.getB ra)) := by
  simp only [exec, execLdkey, h]

theorem exec_ldkey_none (ra : Reg) (f : Fin 4) (h : keySelect f = none) (s : State) :
    exec (.ldkey ra f) s = finish s [(true, .illegal)] s := by
  simp only [exec, execLdkey, h]

theorem exec_ofs (rd : Reg) (s : State) :
    exec (.ofs rd) s = finish s s.tweakChecks (s.setB rd (ofs s.subkeys s.tweakI s.tweakJ)) := rfl

theorem exec_e (rd ra : Reg) (s : State) :
    exec (.e rd ra) s = finish s s.tweakChecks (s.setB rd (cipherE s.subkeys s.tweakI s.tweakJ (s.getB ra))) := rfl

theorem exec_ldd (ra : Reg) (s : State) : exec (.ldd ra) s = finish s [] (s.loadDelta (s.getB ra)) := rfl

theorem exec_std (rd : Reg) (s : State) : exec (.std rd) s = finish s [] (s.setB rd s.delta) := rfl

theorem exec_ldb (rd : Reg) (s : State) :
    exec (.ldb rd) s
      = finish s [(s.outOfRange s.blockAddr 16, .range)] (s.setB rd (blockOfBytes (s.memRead s.blockAddr 16))) := rfl

theorem exec_stb (ra : Reg) (s : State) :
    exec (.stb ra) s
      = finish s [(s.outOfRange s.blockAddr 16, .range)] (s.memWrite s.blockAddr (bytesOfBlock (s.getB ra))) := rfl

theorem exec_zero (s : State) : exec .zero s = finish s [] s.zeroize := rfl

theorem exec_hinit (s : State) :
    exec .hinit s = finish s [(!s.keyv, .nokey)] (s.loadDelta (hashTau s.subkeys s.hinitTau)) := rfl

theorem exec_habs (s : State) :
    exec .habs s = finish s s.habsChecks
      (s.setDelta (s.delta ^^^ habs s.subkeys (s.habsTweak : Int) (s.memRead s.habsSrc s.habsLen))) := rfl

theorem exec_prf (s : State) :
    exec .prf s = finish s s.prfChecks (s.memWrite s.prfDst (prf s.subkeys s.delta s.prfLen)) := rfl

theorem exec_enc (s : State) : exec .enc s = finish s s.coreChecks (s.writeCore 0) := rfl

theorem exec_dec (s : State) : exec .dec s = finish s s.coreChecks (s.writeCore 1) := rfl

/-- The checks of a command (R303), as its meaning lists them. -/
def checksOf : Instr → State → List (Bool × ErrCode)
  | .nop, _ | .dbl _ _, _ | .xor _ _ _, _ | .muli _ _, _ | .aesr _ _ _, _ | .aes4 _ _, _ | .ldd _, _ | .std _, _
  | .zero, _ => []
  | .ldrk _ f all, _ => [(all && f != 0, .illegal)]
  | .ldkey _ f, _ => if (keySelect f).isSome then [] else [(true, .illegal)]
  | .ofs _, s | .e _ _, s => s.tweakChecks
  | .ldb _, s | .stb _, s => [(s.outOfRange s.blockAddr 16, .range)]
  | .hinit, s => [(!s.keyv, .nokey)]
  | .habs, s => s.habsChecks
  | .prf, s => s.prfChecks
  | .enc, s | .dec, s => s.coreChecks

/-- The state after a command's writes, as its meaning makes them. -/
def writesOf : Instr → State → State
  | .nop, s => s
  | .dbl rd ra, s => s.setB rd (dbl (s.getB ra))
  | .xor rd ra rb, s => s.setB rd (s.getB ra ^^^ s.getB rb)
  | .muli rd ra, s => s.setB rd (gfMul s.muliFactor (s.getB ra))
  | .aesr rd ra rb, s => s.setB rd (aesRound (s.getB ra) (s.getB rb))
  | .aes4 rd ra, s => s.setB rd (aes4 (s.getRk 0) (s.getRk 1) (s.getRk 2) (s.getRk 3) (s.getB ra))
  | .ldrk ra f all, s => if all then s.setRkAll (s.getB ra) else s.setRk f (s.getB ra)
  | .ldkey ra f, s => match keySelect f with
    | some k => s.setKey k (s.getB ra)
    | none => s
  | .ofs rd, s => s.setB rd (ofs s.subkeys s.tweakI s.tweakJ)
  | .e rd ra, s => s.setB rd (cipherE s.subkeys s.tweakI s.tweakJ (s.getB ra))
  | .ldd ra, s => s.loadDelta (s.getB ra)
  | .std rd, s => s.setB rd s.delta
  | .ldb rd, s => s.setB rd (blockOfBytes (s.memRead s.blockAddr 16))
  | .stb ra, s => s.memWrite s.blockAddr (bytesOfBlock (s.getB ra))
  | .zero, s => s.zeroize
  | .hinit, s => s.loadDelta (hashTau s.subkeys s.hinitTau)
  | .habs, s => s.setDelta (s.delta ^^^ habs s.subkeys (s.habsTweak : Int) (s.memRead s.habsSrc s.habsLen))
  | .prf, s => s.memWrite s.prfDst (prf s.subkeys s.delta s.prfLen)
  | .enc, s => s.writeCore 0
  | .dec, s => s.writeCore 1

/-- Every command is its checks and then its writes. -/
theorem exec_eq (i : Instr) (s : State) : exec i s = finish s (checksOf i s) (writesOf i s) := by
  cases i
  case ldkey ra f =>
    cases h : keySelect f with
    | some k => rw [exec_ldkey_some ra f k h]; simp only [checksOf, writesOf, h, Option.isSome_some, if_true]
    | none => rw [exec_ldkey_none ra f h]; simp [checksOf, writesOf, h]
  all_goals rfl

/-! ### What a command can do -/

/-- A command in state `s` completes: with an error, or with the completion of some writes. -/
theorem exec_completes (i : Instr) (s : State) :
    (∃ e, exec i s = .next (s.raiseError e)) ∨ ∃ u : State, exec i s = .next u.complete := by
  rw [exec_eq]
  rcases finish_cases s (writesOf i s) (checksOf i s) with ⟨e, _, h⟩ | ⟨_, h⟩
  · exact Or.inl ⟨e, h⟩
  · exact Or.inr ⟨_, h⟩

/-- A completion that keeps what no command changes is a success. -/
theorem succeeded_complete (s t : State) (kept : Kept s t) (err : t.err = s.err) (errcmd : t.errcmd = s.errcmd) :
    Succeeded s t.complete where
  kept := ⟨kept.irqEn, kept.ovr, kept.arg, kept.cmd, kept.params, kept.epoch, kept.draws, kept.script, kept.rdata⟩
  busy := rfl
  done := rfl
  errcode := rfl
  err := err
  errcmd := errcmd

/-- No command's writes touch CTRL, OVR, ARG, CMD, ERR, ERRCMD, the platform or the model's own fields. -/
theorem writesOf_kept (i : Instr) (s : State) :
    Kept s (writesOf i s) ∧ (writesOf i s).err = s.err ∧ (writesOf i s).errcmd = s.errcmd := by
  suffices h : (writesOf i s).irqEn = s.irqEn ∧ (writesOf i s).ovr = s.ovr ∧ (writesOf i s).arg = s.arg ∧
      (writesOf i s).cmd = s.cmd ∧ (writesOf i s).params = s.params ∧ (writesOf i s).epoch = s.epoch ∧
      (writesOf i s).draws = s.draws ∧ (writesOf i s).script = s.script ∧ (writesOf i s).rdata = s.rdata ∧
      (writesOf i s).err = s.err ∧ (writesOf i s).errcmd = s.errcmd by
    obtain ⟨h1, h2, h3, h4, h5, h6, h7, h8, h9, h10⟩ := h
    exact ⟨⟨h1, h2, h3, h4, h5, h6, h7, h8, h9⟩, h10⟩
  cases i
  case ldkey ra f =>
    simp only [writesOf]
    split
    · rename_i k _
      cases k <;> simp
    · simp
  case ldrk ra f all => cases all <;> simp [writesOf]
  all_goals simp [writesOf, State.writeCore]

/-! ### Lengths -/

theorem prf_length (k : Subkeys) (delta : Block) (n : Nat) : (prf k delta n).length = n := by
  simp [prf, List.length_flatMap, List.map_const', List.sum_replicate]
  omega

theorem pass1_length (k : Subkeys) (l : List (Block × Block)) (j : Nat) : (pass1 k j l).length = l.length := by
  induction l generalizing j with
  | nil => rfl
  | cons q r ih => simp [pass1, ih]

theorem pass2_length (k : Subkeys) (s : Block) (l : List (Block × Block)) (j : Nat) :
    (pass2 k s j l).length = l.length := by
  induction l generalizing j with
  | nil => rfl
  | cons q r ih => simp [pass2, ih]

theorem fragMask_length (k : Subkeys) (s : Block) (f : List Byte) (h : f.length ≤ 32) :
    (fragMask k s f).length = f.length := by
  unfold fragMask
  split <;> simp <;> omega

theorem pairBytes_length (q : Block × Block) : (pairBytes q).length = 32 := by simp [pairBytes]

theorem flatMap_pairBytes_length (l : List (Block × Block)) : (l.flatMap pairBytes).length = 32 * l.length := by
  induction l with
  | nil => rfl
  | cons q r ih =>
    rw [List.flatMap_cons, List.length_append, ih, pairBytes_length, List.length_cons]
    ring

theorem splitInput_frag_length (s : List Byte) (h : 32 ≤ s.length) :
    (splitInput s).frag.length = fragLen s.length := by
  simp only [splitInput, List.length_take, List.length_drop, pairCount, fragLen]
  omega

/-- AEZ-core keeps the length of its input (R270). -/
theorem wideBlock_length (k : Subkeys) (d : Nat) (delta : Block) (text : List Byte) (h : 32 ≤ text.length) :
    (wideBlock k d delta text).length = text.length := by
  have e1 := splitInput_frag_length text h
  have hf : fragLen text.length < 32 := Nat.mod_lt _ (by decide)
  simp only [wideBlock, joinOutput, coreRun, List.length_append, length_bytesOfBlock]
  rw [fragMask_length _ _ _ (by omega), e1, flatMap_pairBytes_length, pass2_length, pass1_length]
  simp only [splitInput, List.length_map, List.length_range, pairCount, fragLen]
  omega

end Sys2Proof.Machine
end

