-- ==== Sys2Proof/Laws/PerInstr.lean ====
section
/-! SUPPORT. One family of statements made per command: the encoder agrees with the command's row of the opcode table. -/

namespace Sys2Proof.Laws.OpcodeRow

set_option Elab.async false

/-- The mask and match of a command's row, as spec/opcode_table.json gives them (R115). -/
def tableRow : Instr → Word × Word
  | .nop => (0xFFFFFFFF#32, 0x00000000#32)
  | .dbl _ _ => (0xFFFF88FF#32, 0x00000001#32)
  | .xor _ _ _ => (0xFFF888FF#32, 0x00000002#32)
  | .muli _ _ => (0xFFFF88FF#32, 0x00000003#32)
  | .aesr _ _ _ => (0xFFF888FF#32, 0x00000004#32)
  | .aes4 _ _ => (0xFFFF88FF#32, 0x00000005#32)
  | .ldrk _ _ _ => (0xFF8F8FFF#32, 0x00000006#32)
  | .ldkey _ _ => (0xFFCF8FFF#32, 0x00000007#32)
  | .ofs _ => (0xFFFFF8FF#32, 0x00000008#32)
  | .e _ _ => (0xFFFF88FF#32, 0x00000009#32)
  | .ldd _ => (0xFFFF8FFF#32, 0x0000000A#32)
  | .std _ => (0xFFFFF8FF#32, 0x0000000B#32)
  | .ldb _ => (0xFFFFF8FF#32, 0x0000000C#32)
  | .stb _ => (0xFFFF8FFF#32, 0x0000000D#32)
  | .zero => (0xFFFFFFFF#32, 0x0000000E#32)
  | .hinit => (0xFFFFFFFF#32, 0x00000010#32)
  | .habs => (0xFFFFFFFF#32, 0x00000011#32)
  | .prf => (0xFFFFFFFF#32, 0x00000018#32)
  | .enc => (0xFFFFFFFF#32, 0x00000020#32)
  | .dec => (0xFFFFFFFF#32, 0x00000021#32)

/-- The command's word, under its row's mask, is its row's match. -/
def Statement (i : Instr) : Prop := encode i &&& (tableRow i).1 = (tableRow i).2

theorem nop : Statement (.nop) := by
  unfold Statement
  decide +kernel

theorem dbl (rd : Reg) (ra : Reg) : Statement (.dbl rd ra) := by
  revert rd ra
  unfold Statement
  decide +kernel

theorem xor (rd : Reg) (ra : Reg) (rb : Reg) : Statement (.xor rd ra rb) := by
  revert rd ra rb
  unfold Statement
  decide +kernel

theorem muli (rd : Reg) (ra : Reg) : Statement (.muli rd ra) := by
  revert rd ra
  unfold Statement
  decide +kernel

theorem aesr (rd : Reg) (ra : Reg) (rb : Reg) : Statement (.aesr rd ra rb) := by
  revert rd ra rb
  unfold Statement
  decide +kernel

theorem aes4 (rd : Reg) (ra : Reg) : Statement (.aes4 rd ra) := by
  revert rd ra
  unfold Statement
  decide +kernel

theorem ldrk (ra : Reg) (f : Fin 4) (all : Bool) : Statement (.ldrk ra f all) := by
  revert ra f all
  unfold Statement
  decide +kernel

theorem ldkey (ra : Reg) (f : Fin 4) : Statement (.ldkey ra f) := by
  revert ra f
  unfold Statement
  decide +kernel

theorem ofs (rd : Reg) : Statement (.ofs rd) := by
  revert rd
  unfold Statement
  decide +kernel

theorem e (rd : Reg) (ra : Reg) : Statement (.e rd ra) := by
  revert rd ra
  unfold Statement
  decide +kernel

theorem ldd (ra : Reg) : Statement (.ldd ra) := by
  revert ra
  unfold Statement
  decide +kernel

theorem std (rd : Reg) : Statement (.std rd) := by
  revert rd
  unfold Statement
  decide +kernel

theorem ldb (rd : Reg) : Statement (.ldb rd) := by
  revert rd
  unfold Statement
  decide +kernel

theorem stb (ra : Reg) : Statement (.stb ra) := by
  revert ra
  unfold Statement
  decide +kernel

theorem zero : Statement (.zero) := by
  unfold Statement
  decide +kernel

theorem hinit : Statement (.hinit) := by
  unfold Statement
  decide +kernel

theorem habs : Statement (.habs) := by
  unfold Statement
  decide +kernel

theorem prf : Statement (.prf) := by
  unfold Statement
  decide +kernel

theorem enc : Statement (.enc) := by
  unfold Statement
  decide +kernel

theorem dec : Statement (.dec) := by
  unfold Statement
  decide +kernel

end Sys2Proof.Laws.OpcodeRow
end

