-- ==== Sys2Proof/Laws/Window.lean ====
section
/-! SUPPORT. The register window: what each offset names, which accesses are admitted, and what a step on one is. -/

namespace Sys2Proof

/-- DMEM lies inside the window: DMEM_SIZE is at most 2^20 (R7). -/
theorem Params.dmemSize_le (p : Params) : p.dmemSize ≤ 0x100000 := by
  have := p.dmemLog.isLt
  calc p.dmemSize = 2 ^ (p.dmemLog.val + 6) := rfl
    _ ≤ 2 ^ 20 := Nat.pow_le_pow_right (by decide) (by omega)
    _ = 0x100000 := rfl

/-- DMEM_SIZE is a multiple of 4 (R7), so an aligned word never leaves DMEM. -/
theorem Params.four_dvd_dmemSize (p : Params) : 4 ∣ p.dmemSize := by
  have : p.dmemSize = 4 * 2 ^ (p.dmemLog.val + 4) := by rw [Params.dmemSize, pow_add, pow_add]; ring
  exact ⟨_, this⟩

end Sys2Proof

namespace Sys2Proof.Machine

/-- No CSR offset names DMEM. -/
theorem csrOf_ne_dmem (off a : Nat) : csrOf off ≠ .dmem a := by
  unfold csrOf csrLow csrCommand
  repeat' first | split | exact Target.noConfusion

theorem targetOf_csr (p : Params) (off : Nat) (h : off < 0x100000) : targetOf p off = csrOf off := by
  rw [targetOf, dmemOffset, if_pos h]

theorem targetOf_dmem (p : Params) (a : Nat) (h : a < p.dmemSize) : targetOf p (0x100000 + a) = .dmem a := by
  rw [targetOf, dmemOffset, if_neg (by omega), if_pos (by omega), Nat.add_sub_cancel_left]

/-- Past DMEM the window is reserved (R45). -/
theorem targetOf_tail (p : Params) (off : Nat) (h : 0x100000 + p.dmemSize ≤ off) : targetOf p off = .reserved := by
  rw [targetOf, dmemOffset, if_neg (by omega), if_neg (by omega)]

/-- Everything an offset can name: a CSR, a byte of DMEM, or nothing. -/
theorem targetOf_cases (p : Params) (off : Nat) :
    (off < 0x100000 ∧ targetOf p off = csrOf off) ∨
    (∃ a, off = 0x100000 + a ∧ a < p.dmemSize ∧ targetOf p off = .dmem a) ∨
    (0x100000 + p.dmemSize ≤ off ∧ targetOf p off = .reserved) := by
  by_cases h : off < 0x100000
  · exact Or.inl ⟨h, targetOf_csr p off h⟩
  · by_cases h2 : off < 0x100000 + p.dmemSize
    · obtain ⟨a, rfl⟩ : ∃ a, off = 0x100000 + a := ⟨off - 0x100000, by omega⟩
      exact Or.inr (Or.inl ⟨a, rfl, by omega, targetOf_dmem p a (by omega)⟩)
    · exact Or.inr (Or.inr ⟨by omega, targetOf_tail p off (by omega)⟩)

theorem csrOf_block (n : Reg) (w : Fin 4) : csrOf (0x100 + 16 * n.val + 4 * w.val) = .block n w := by
  revert n w; decide

theorem csrOf_rk (n : Fin 4) (w : Fin 4) : csrOf (0x240 + 16 * n.val + 4 * w.val) = .rk n w := by
  revert n w; decide

theorem csrOf_delta (w : Fin 4) : csrOf (0x180 + 4 * w.val) = .delta w := by revert w; decide

theorem csrOf_ki (w : Fin 4) : csrOf (0x200 + 4 * w.val) = .key .ki w := by revert w; decide

theorem csrOf_kj (w : Fin 4) : csrOf (0x210 + 4 * w.val) = .key .kj w := by revert w; decide

theorem csrOf_kl (w : Fin 4) : csrOf (0x220 + 4 * w.val) = .key .kl w := by revert w; decide

theorem csrOf_arg (n : Fin 4) : csrOf (0x020 + 4 * n.val) = .arg n := by revert n; decide

/-- What is asked of a target's offset and width, the DMEM case apart. -/
theorem admittedAt_word (t : Target) (off : Nat) (ht : ∀ a, t ≠ .dmem a) (h4 : off % 4 = 0) :
    admittedAt t off 4 = true := by
  cases t <;> first | exact absurd rfl (ht _) | simp [admittedAt, h4]

/-- A word access at an aligned offset of the window that does not name DMEM is admitted (R85). -/
theorem admitted_word (p : Params) (a : HostAccess) (off : Nat) (haddr : a.addr = p.blockBase + off)
    (hb : a.bytes = 4) (hin : off < 0x200000) (ht : ∀ x, targetOf p off ≠ .dmem x) (h4 : off % 4 = 0) :
    a.admitted p = true := by
  have ho : a.offset p = off := by rw [HostAccess.offset, haddr, Nat.add_sub_cancel_left]
  rw [HostAccess.admitted, HostAccess.target, ho, hb, admittedAt_word _ _ ht h4, haddr]
  simp [inWindow, windowSize]
  omega

/-- A naturally aligned access of 8, 16 or 32 bits inside DMEM is admitted (R86). -/
theorem admitted_dmem (p : Params) (a : HostAccess) (x n : Nat) (haddr : a.addr = p.blockBase + (0x100000 + x))
    (hb : a.bytes = n) (hn : n = 1 ∨ n = 2 ∨ n = 4) (hx : x % n = 0) (hin : x + n ≤ p.dmemSize) :
    a.admitted p = true := by
  have ho : a.offset p = 0x100000 + x := by rw [HostAccess.offset, haddr, Nat.add_sub_cancel_left]
  have hs := p.dmemSize_le
  have hlt : x < p.dmemSize := by omega
  rw [HostAccess.admitted, HostAccess.target, ho, hb, targetOf_dmem p x hlt, haddr]
  have hin' : inWindow p (p.blockBase + (0x100000 + x)) = true := by simp [inWindow, windowSize]; omega
  rw [hin', Bool.true_and]
  rcases hn with rfl | rfl | rfl <;> simp [admittedAt] <;> omega

/-- The step on an admitted access. -/
theorem step_access (s : State) (a : HostAccess) (rest : List Event) (hs : s.script = .access a :: rest)
    (ha : a.admitted s.params = true) : step s = .next ({ s with script := rest }.hostAccess a) := by
  simp only [step, agentStep, hs, State.hostTurn, ha, if_true]

/-- The step on an admitted read, by the target it names. -/
theorem step_read (s : State) (off n : Nat) (rest : List Event) (t : Target)
    (hs : s.script = .access (.read (s.params.blockBase + off) n) :: rest)
    (ha : (HostAccess.read (s.params.blockBase + off) n).admitted s.params = true) (ht : targetOf s.params off = t) :
    step s = .next ({ s with script := rest }.hostRead t n) := by
  rw [step_access s _ rest hs ha]
  simp [State.hostAccess, HostAccess.target, HostAccess.offset, HostAccess.addr, ht]

/-- The step on an admitted write, by the target it names. -/
theorem step_write (s : State) (off n : Nat) (v : Word) (rest : List Event) (t : Target)
    (hs : s.script = .access (.write (s.params.blockBase + off) n v) :: rest)
    (ha : (HostAccess.write (s.params.blockBase + off) n v).admitted s.params = true)
    (ht : targetOf s.params off = t) : step s = .next ({ s with script := rest }.hostWrite t n v) := by
  rw [step_access s _ rest hs ha]
  simp [State.hostAccess, HostAccess.target, HostAccess.offset, HostAccess.addr, ht]

/-- The step on a CSR read: an aligned word read below 0x1000 (and in the reserved part below DMEM) is admitted. -/
theorem step_read_csr (s : State) (off : Nat) (rest : List Event) (h : off < 0x100000) (h4 : off % 4 = 0)
    (hs : s.script = .access (.read (s.params.blockBase + off) 4) :: rest) :
    step s = .next ({ s with script := rest }.hostRead (csrOf off) 4) :=
  step_read s off 4 rest _ hs
    (admitted_word s.params _ off rfl rfl (by omega) (fun x => targetOf_csr s.params off h ▸ csrOf_ne_dmem off x) h4)
    (targetOf_csr s.params off h)

/-- The step on a CSR write. -/
theorem step_write_csr (s : State) (off : Nat) (v : Word) (rest : List Event) (h : off < 0x100000) (h4 : off % 4 = 0)
    (hs : s.script = .access (.write (s.params.blockBase + off) 4 v) :: rest) :
    step s = .next ({ s with script := rest }.hostWrite (csrOf off) 4 v) :=
  step_write s off 4 v rest _ hs
    (admitted_word s.params _ off rfl rfl (by omega) (fun x => targetOf_csr s.params off h ▸ csrOf_ne_dmem off x) h4)
    (targetOf_csr s.params off h)

/-- What an admitted access can be: an aligned word access that names no byte of DMEM, or a naturally aligned access
inside DMEM. -/
theorem admitted_cases (p : Params) (a : HostAccess) (h : a.admitted p = true) :
    ((∀ x, a.target p ≠ .dmem x) ∧ a.bytes = 4 ∧ a.offset p % 4 = 0) ∨
    (∃ x, a.target p = .dmem x ∧ (a.bytes = 1 ∨ a.bytes = 2 ∨ a.bytes = 4) ∧ x + a.bytes ≤ p.dmemSize) := by
  simp only [HostAccess.admitted, Bool.and_eq_true] at h
  obtain ⟨hw, ha⟩ := h
  cases ht : a.target p with
  | dmem x =>
    right
    rw [ht] at ha
    simp only [admittedAt, Bool.and_eq_true, Bool.or_eq_true, beq_iff_eq] at ha
    obtain ⟨hn, hm⟩ := ha
    refine ⟨x, rfl, by omega, ?_⟩
    rcases targetOf_cases p (a.offset p) with ⟨_, h⟩ | ⟨y, hy, _, h⟩ | ⟨_, h⟩
    · exact absurd (h.symm.trans ht) (csrOf_ne_dmem _ _)
    · cases h.symm.trans ht
      obtain ⟨q, hq⟩ := p.four_dvd_dmemSize
      rw [hy] at hm
      rcases hn with (hn | hn) | hn <;> rw [hn] at hm ⊢ <;> omega
    · cases h.symm.trans ht
  | _ =>
    left
    rw [ht] at ha
    simp only [admittedAt, Bool.and_eq_true, beq_iff_eq] at ha
    exact ⟨by simp, ha⟩

end Sys2Proof.Machine
end

