-- ==== Sys2Proof/Machine/HostMacros.lean ====
section
/-! DEFINITION. The host's pseudo-instructions (30_encoding.md R119) as moves of the script. They name what a host does;
the machine does not depend on them (log entry 17). -/

namespace Sys2Proof.Machine

/-- `wr off, v` (R119). -/
def macroWr (p : Params) (off : Nat) (v : Word) : Event := .access (.write (p.blockBase + off) 4 v)

/-- `rd off` (R119). -/
def macroRd (p : Params) (off : Nat) : Event := .access (.read (p.blockBase + off) 4)

/-- `wrblk off, x`: four word writes with the words of R46 (R119). -/
def macroWrblk (p : Params) (off : Nat) (x : Block) : List Event :=
  [macroWr p off (regWord x 0), macroWr p (off + 4) (regWord x 1), macroWr p (off + 8) (regWord x 2),
    macroWr p (off + 12) (regWord x 3)]

/-- `wrmem a, bytes` (R119). DESIGN CHOICE: 8-bit writes, one a byte, in rising order; the rule says only that it writes
bytes (log entry 17). -/
def macroWrmem (p : Params) : Nat → List Byte → List Event
  | _, [] => []
  | a, v :: vs => .access (.write (p.blockBase + dmemOffset + a) 1 (v.setWidth 32)) :: macroWrmem p (a + 1) vs

/-- `rdmem a, n` (R119). DESIGN CHOICE: 8-bit reads, one a byte, in rising order; the rule says only that it reads n
bytes (log entry 17). -/
def macroRdmem (p : Params) (a n : Nat) : List Event :=
  (List.range n).map fun k => .access (.read (p.blockBase + dmemOffset + a + k) 1)

/-- `wait` (R119), with the engine's completion before the poll that sees BUSY = 0. -/
def macroWait (p : Params) : List Event := [.engine, macroRd p 0x00C]

/-- The ARG writes of a command form, ARG0 first (R119). -/
def macroArgs (p : Params) : Nat → List Word → List Event
  | _, [] => []
  | n, v :: vs => macroWr p (0x020 + 4 * n) v :: macroArgs p (n + 1) vs

/-- A command mnemonic: its ARG writes, the CMD write of its word, and `wait` (R119). -/
def macroCommand (p : Params) (i : Instr) (args : List Word) : List Event :=
  macroArgs p 0 args ++ macroWr p 0x010 (encode i) :: macroWait p

/-- An assembler form of R118, its operands in the order the form writes them. -/
inductive AsmForm where
  | nop
  | dbl (bD bA : Reg)
  | xor (bD bA bB : Reg)
  | muli (bD bA : Reg) (n : Word)
  | aesr (bD bA bB : Reg)
  | aes4 (bD bA : Reg)
  | ldrkOne (k : Fin 4) (bA : Reg)
  | ldrkAll (bA : Reg)
  | ldkey (k : KeyName) (bA : Reg)
  | ofs (bD : Reg) (i : Int) (j : Word)
  | e (bD bA : Reg) (i : Int) (j : Word)
  | ldd (bA : Reg)
  | std (bD : Reg)
  | ldb (bD : Reg) (addr : Word)
  | stb (bA : Reg) (addr : Word)
  | zero
  | hinit (taubits : Word)
  | habs (src len i : Word)
  | prf (dst len : Word)
  | enc (src dst len : Word)
  | dec (src dst len : Word)
deriving DecidableEq, Repr

/-- The selector of a key register: F of LDKEY (R183). -/
def keyField : KeyName → Fin 4
  | .ki => 0
  | .kj => 1
  | .kl => 2

/-- The command an assembler form is (R118). -/
def asmCommand : AsmForm → Instr
  | .nop => .nop
  | .dbl d a => .dbl d a
  | .xor d a b => .xor d a b
  | .muli d a _ => .muli d a
  | .aesr d a b => .aesr d a b
  | .aes4 d a => .aes4 d a
  | .ldrkOne k a => .ldrk a k false
  | .ldrkAll a => .ldrk a 0 true
  | .ldkey k a => .ldkey a (keyField k)
  | .ofs d _ _ => .ofs d
  | .e d a _ _ => .e d a
  | .ldd a => .ldd a
  | .std d => .std d
  | .ldb d _ => .ldb d
  | .stb a _ => .stb a
  | .zero => .zero
  | .hinit _ => .hinit
  | .habs _ _ _ => .habs
  | .prf _ _ => .prf
  | .enc _ _ _ => .enc
  | .dec _ _ _ => .dec

/-- The ARG values an assembler form writes, ARG0 first (R118): `#i` of `ofs` and `e` is ARG1, in two's complement. -/
def asmArgs : AsmForm → List Word
  | .muli _ _ n => [n]
  | .ofs _ i j => [j, BitVec.ofInt 32 i]
  | .e _ _ i j => [j, BitVec.ofInt 32 i]
  | .ldb _ addr => [addr]
  | .stb _ addr => [addr]
  | .hinit taubits => [taubits]
  | .habs src len i => [src, len, i]
  | .prf dst len => [dst, len]
  | .enc src dst len => [src, dst, len]
  | .dec src dst len => [src, dst, len]
  | .nop | .dbl _ _ | .xor _ _ _ | .aesr _ _ _ | .aes4 _ _ | .ldrkOne _ _ | .ldrkAll _ | .ldkey _ _ | .ldd _ | .std _
  | .zero => []

/-- The moves an assembler line expands to (R119). -/
def asmExpand (p : Params) (f : AsmForm) : List Event := macroCommand p (asmCommand f) (asmArgs f)

end Sys2Proof.Machine
end

