-- ==== Sys2Proof/Tests/Slice0.lean ====
section
/-! SUPPORT. The model's own tests: ill-formed commands refused, every command's word decoded, at most two steps per
command against the vectors of 95_test_vectors.md, and a witness for every statement that has hypotheses. -/

open Sys2Proof Sys2Proof.Machine Sys2Proof.Certificates

namespace Sys2Proof.Tests

set_option Elab.async false

/-! ### Well-formedness (R112, R116) -/

/-- LDKEY with F = 3 is refused (R116 (d)). -/
theorem test_ldkey_selector : (Instr.ldkey 5 3).wellFormed = false := by decide

/-- LDRK with ALL = 1 and F = 1 is refused (R116 (e)). -/
theorem test_ldrk_selector : (Instr.ldrk 5 1 true).wellFormed = false := by decide

/-- The neighbours of the refused forms are well formed. -/
theorem test_wellFormed_neighbours :
    (Instr.ldkey 5 2).wellFormed = true ∧ (Instr.ldrk 5 0 true).wellFormed = true ∧
    (Instr.ldrk 5 3 false).wellFormed = true := by decide

/-! ### Decoding: words written out from R111 and R115 (the CW column of 95_test_vectors.md) -/

theorem test_decode_nop : decode 0x00000000#32 = .ok .nop := by decide +kernel
theorem test_decode_dbl : decode 0x00005201#32 = .ok (.dbl 2 5) := by decide +kernel
theorem test_decode_xor : decode 0x00021302#32 = .ok (.xor 3 1 2) := by decide +kernel
theorem test_decode_muli : decode 0x00000103#32 = .ok (.muli 1 0) := by decide +kernel
theorem test_decode_aesr : decode 0x00010204#32 = .ok (.aesr 2 0 1) := by decide +kernel
theorem test_decode_aes4 : decode 0x00001205#32 = .ok (.aes4 2 1) := by decide +kernel
theorem test_decode_ldrk_one : decode 0x00205006#32 = .ok (.ldrk 5 2 false) := by decide +kernel
theorem test_decode_ldrk_all : decode 0x00402006#32 = .ok (.ldrk 2 0 true) := by decide +kernel
theorem test_decode_ldkey : decode 0x00103007#32 = .ok (.ldkey 3 1) := by decide +kernel
theorem test_decode_ofs : decode 0x00000408#32 = .ok (.ofs 4) := by decide +kernel
theorem test_decode_e : decode 0x00001209#32 = .ok (.e 2 1) := by decide +kernel
theorem test_decode_ldd : decode 0x0000600A#32 = .ok (.ldd 6) := by decide +kernel
theorem test_decode_std : decode 0x0000050B#32 = .ok (.std 5) := by decide +kernel
theorem test_decode_ldb : decode 0x0000040C#32 = .ok (.ldb 4) := by decide +kernel
theorem test_decode_stb : decode 0x0000400D#32 = .ok (.stb 4) := by decide +kernel
theorem test_decode_zero : decode 0x0000000E#32 = .ok .zero := by decide +kernel
theorem test_decode_hinit : decode 0x00000010#32 = .ok .hinit := by decide +kernel
theorem test_decode_habs : decode 0x00000011#32 = .ok .habs := by decide +kernel
theorem test_decode_prf : decode 0x00000018#32 = .ok .prf := by decide +kernel
theorem test_decode_enc : decode 0x00000020#32 = .ok .enc := by decide +kernel
theorem test_decode_dec : decode 0x00000021#32 = .ok .dec := by decide +kernel

/-- The gaps of the opcode map (V-ERR-5). -/
theorem test_decode_gaps :
    decode 0x0000000F#32 = .error .unknownOpcode ∧ decode 0x00000012#32 = .error .unknownOpcode ∧
    decode 0x00000019#32 = .error .unknownOpcode ∧ decode 0x00000022#32 = .error .unknownOpcode ∧
    decode 0x000000FF#32 = .error .unknownOpcode := by decide +kernel

/-- Reserved bits, unused fields and the two selectors (V-NOP-2, V-ERR-6, V-E-12, V-KEY-2, V-RK-3). -/
theorem test_decode_illegal :
    decode 0x00000100#32 = .error .unusedField ∧ decode 0x00000808#32 = .error .reservedBit ∧
    decode 0x00001008#32 = .error .unusedField ∧ decode 0x00303007#32 = .error .ldkeySelector ∧
    decode 0x00500006#32 = .error .ldrkSelector ∧ decode 0x80000000#32 = .error .reservedBit := by decide +kernel

/-- The example of R119: `e b2, b1, #3, #1`. -/
theorem test_asm_e : asmExpand Params.reference (.e 2 1 3 1#32) =
    [macroWr Params.reference 0x020 0x00000001#32, macroWr Params.reference 0x024 0x00000003#32,
      macroWr Params.reference 0x010 0x00001209#32] ++ macroWait Params.reference := by decide +kernel

/-- A negative `#i` is written in two's complement (R118). -/
theorem test_asm_negative : asmArgs (.ofs 0 (-1) 5#32) = [0x00000005#32, 0xFFFFFFFF#32] := by decide +kernel

/-! ### One step on a small state, against 95_test_vectors.md -/

/-- 00 01 … 0F. -/
def ramp : Block := 0x000102030405060708090A0B0C0D0E0F#128

/-- Y of the vectors: any block. -/
def blockY : Block := 0xFFFFFFFFFFFFFFFFFFFFFFFFFFFFFFFF#128

/-- 00 01 02 … as n bytes. -/
def rampBytes (n : Nat) : List Byte := (List.range n).map (BitVec.ofNat 8)

/-- The key set SK loaded. -/
def stateSK : State :=
  { State.reset with ki := ramp, kj := 0x1#128, kl := 0x80000000000000000000000000000000#128, kw := 0b111#3 }

/-- D0 of the vectors: HINIT with ARG0 = 128 under SK (V-HASH-1). -/
def blockD0 : Block := 0xE432155670A3861997E7C162E066CF9E#128

/-- V-HASH-1's state, with `bytes` written at DMEM address `a`. -/
def stateD0 (a : Nat) (bytes : List Byte) : State :=
  { stateSK with delta := blockD0, hashv := true, dmem := Memory.insertBytes [] a bytes }

/-- Command word `w` issued with ARG0..ARG2, the engine's turn next. -/
def pend (s : State) (w a0 a1 a2 : Word) : State :=
  { ({ s with arg := #v[a0, a1, a2, 0#32] } : State).issue w with script := [.engine] }

/-- One step gives a next state that `ok` accepts. -/
def steps (s : State) (ok : State → Bool) : Bool :=
  match step s with
  | .next t => ok t
  | .fault _ => false
  | .refused _ => false

/-- V-NOP-1. -/
theorem test_nop : steps (pend State.reset 0x00000000#32 0 0 0) (fun t => t.statusWord == 0x00000002#32) = true := by
  decide +kernel

/-- V-NOP-2. -/
theorem test_nop_illegal : steps (pend State.reset 0x00000100#32 0 0 0)
    (fun t => t.statusWord == 0x00000106#32 && t.errcmd == 0x00000100#32) = true := by decide +kernel

/-- V-DBL-5: RD = RA. -/
theorem test_dbl_alias : steps (pend (State.reset.setB 0 0x40000000000000000000000000000001#128) 0x00000001#32 0 0 0)
    (fun t => t.getB 0 == 0x80000000000000000000000000000002#128) = true := by decide +kernel

/-- V-DBL-1: the reduction. -/
theorem test_dbl_reduces : steps (pend (State.reset.setB 1 0x80000000000000000000000000000000#128) 0x00001201#32 0 0 0)
    (fun t => t.getB 2 == 0x00000000000000000000000000000087#128) = true := by decide +kernel

/-- V-XOR-1. -/
theorem test_xor : steps (pend ((State.reset.setB 1 ramp).setB 2 blockY) 0x00021302#32 0 0 0)
    (fun t => t.getB 3 == 0xFFFEFDFCFBFAF9F8F7F6F5F4F3F2F1F0#128 && t.getB 1 == ramp) = true := by decide +kernel

/-- V-XOR-2. -/
theorem test_xor_self : steps (pend (State.reset.setB 1 blockY) 0x00011102#32 0 0 0)
    (fun t => t.getB 1 == 0#128) = true := by decide +kernel

/-- V-MUL-10. -/
theorem test_muli : steps (pend (State.reset.setB 0 0x80000000000000000000000000000000#128) 0x00000103#32 5 0 0)
    (fun t => t.getB 1 == 0x8000000000000000000000000000010E#128) = true := by decide +kernel

/-- V-MUL-9: the largest factor. -/
theorem test_muli_largest : steps (pend (State.reset.setB 0 ramp) 0x00000103#32 0xFFFFFFFF 0 0)
    (fun t => t.getB 1 == 0x03FC03FC0404040403FC03FC04790082#128) = true := by decide +kernel

/-- V-AES-1. -/
theorem test_aesr : steps (pend State.reset 0x00010204#32 0 0 0)
    (fun t => t.getB 2 == 0x63636363636363636363636363636363#128) = true := by decide +kernel

/-- V-AES-7: RD = RA = RB. -/
theorem test_aesr_alias : steps (pend (State.reset.setB 1 ramp) 0x00011104#32 0 0 0)
    (fun t => t.getB 1 == 0x6A6B5E4628683556B8D0576A2B912F53#128) = true := by decide +kernel

/-- V-AES-3. -/
theorem test_aes4 : steps (pend (State.reset.setRkAll ramp) 0x00000105#32 0 0 0)
    (fun t => t.getB 1 == 0x0499E19D7352449B48FEEBD311E97B14#128) = true := by decide +kernel

/-- V-AES-4: RK never written. -/
theorem test_aes4_reset : steps (pend State.reset 0x00000105#32 0 0 0)
    (fun t => t.getB 1 == 0x76767676767676767676767676767676#128) = true := by decide +kernel

/-- V-RK-1. -/
theorem test_ldrk_all : steps (pend (State.reset.setB 0 ramp) 0x00400006#32 0 0 0)
    (fun t => t.getRk 0 == ramp && t.getRk 1 == ramp && t.getRk 2 == ramp && t.getRk 3 == ramp) = true := by
  decide +kernel

/-- V-RK-2. -/
theorem test_ldrk_one : steps (pend ((State.reset.setRkAll ramp).setB 5 blockY) 0x00205006#32 0 0 0)
    (fun t => t.getRk 0 == ramp && t.getRk 1 == ramp && t.getRk 2 == blockY && t.getRk 3 == ramp) = true := by
  decide +kernel

/-- V-KEY-1. -/
theorem test_ldkey : steps (pend (State.reset.setB 3 blockY) 0x00103007#32 0 0 0)
    (fun t => t.kj == blockY && t.ki == 0#128 && t.statusWord == 0x00020002#32) = true := by decide +kernel

/-- V-KEY-2. -/
theorem test_ldkey_illegal : steps (pend (State.reset.setB 3 blockY) 0x00303007#32 0 0 0)
    (fun t => t.errcode == 0x01#8 && t.kw == 0#3) = true := by decide +kernel

/-- V-OFS-2: the largest tweak index. -/
theorem test_ofs_largest : steps (pend stateSK 0x00000008#32 1 0x7FFFFFFF 0)
    (fun t => t.getB 0 == 0x800000000000000000000003FFFFFFE9#128) = true := by decide +kernel

/-- V-E-11: NOKEY before TWEAK. -/
theorem test_ofs_order : steps (pend State.reset 0x00000008#32 0 2 0) (fun t => t.errcode == 0x02#8) = true := by
  decide +kernel

/-- V-E-6. -/
theorem test_e : steps (pend stateSK 0x00001209#32 1 3 0)
    (fun t => t.getB 2 == 0x6EC7BDE0BA4DC3BC7C91D966B6C53FD2#128) = true := by decide +kernel

/-- V-E-9: ARG1 is signed. -/
theorem test_e_tweak : steps (pend stateSK 0x00000009#32 5 0xFFFFFFFE 0) (fun t => t.errcode == 0x04#8) = true := by
  decide +kernel

/-- V-LDD-1. -/
theorem test_ldd : steps (pend (State.reset.setB 0 0x1#128) 0x0000000A#32 0 0 0)
    (fun t => t.delta == 0x1#128 && t.hashv) = true := by decide +kernel

/-- V-STD-1: no error without a hash. -/
theorem test_std : steps (pend (State.reset.setB 5 blockY) 0x0000050B#32 0 0 0)
    (fun t => t.getB 5 == 0#128 && t.errcode == 0x00#8) = true := by decide +kernel

/-- V-LDB-2: the last legal address. -/
theorem test_ldb_last : steps (pend { State.reset with dmem := Memory.insertBytes [] 65520 (rampBytes 16) }
    0x0000040C#32 65520 0 0) (fun t => t.getB 4 == ramp) = true := by decide +kernel

/-- V-LDB-3: one byte further. -/
theorem test_ldb_range : steps (pend (State.reset.setB 4 ramp) 0x0000040C#32 65521 0 0)
    (fun t => t.errcode == 0x06#8 && t.getB 4 == ramp) = true := by decide +kernel

/-- V-STB-1: an unaligned address. -/
theorem test_stb : steps (pend (State.reset.setB 4 ramp) 0x0000400D#32 3 0 0)
    (fun t => t.dmem == Memory.insertBytes [] 3 (rampBytes 16)) = true := by decide +kernel

/-- V-STB-2: the sum does not wrap. -/
theorem test_stb_range : steps (pend (State.reset.setB 4 ramp) 0x0000400D#32 0xFFFFFFF8 0 0)
    (fun t => t.errcode == 0x06#8 && t.dmem == []) = true := by decide +kernel

/-- V-ZERO-1. -/
theorem test_zero : steps (pend ((stateD0 0 [0x55#8]).setB 7 blockY) 0x0000000E#32 0 0 0)
    (fun t => t.statusWord == 0x00000002#32 && t.ki == 0#128 && t.delta == 0#128 && t.getB 7 == 0#128
      && t.dmem == [(0, 0x55#8)]) = true := by decide +kernel

/-- V-HASH-1. -/
theorem test_hinit : steps (pend stateSK 0x00000010#32 128 0 0) (fun t => t.delta == blockD0 && t.hashv) = true := by
  decide +kernel

/-- V-HASH-14. -/
theorem test_hinit_nokey : steps (pend State.reset 0x00000010#32 128 0 0)
    (fun t => t.errcode == 0x02#8 && !t.hashv) = true := by decide +kernel

/-- V-HASH-12: no byte at the end of DMEM. -/
theorem test_habs_empty : steps (pend (stateD0 0 []) 0x00000011#32 65536 0 4)
    (fun t => t.delta == 0x022D07180E5AB7563691935FB6F13592#128) = true := by decide +kernel

/-- V-HASH-4: a partial block. -/
theorem test_habs_partial : steps (pend (stateD0 0 (List.replicate 12 0#8)) 0x00000011#32 0 12 4)
    (fun t => t.delta == 0x0F0FB386417408EFBAE48CF9C7BEE60C#128) = true := by decide +kernel

/-- V-HASH-1, V-HASH-4 and V-HASH-5 in one: τ = 128, a nonce of 12 zero bytes and one empty AD element (R232). -/
theorem test_aezHash : aezHash stateSK.subkeys 128#32 (List.replicate 12 0#8) [[]]
    = 0xD0A635B619A717F156960485E5F013F9#128 := by decide +kernel

/-- V-PRF-2: a truncated second block. -/
theorem test_prf : steps (pend (stateD0 0 []) 0x00000018#32 0x40 20 0)
    (fun t => t.dmem == Memory.insertBytes []
      0x40 [0x17, 0x44, 0x48, 0xB4, 0xC0, 0x63, 0x6E, 0x6F, 0x7A, 0x29, 0xB8, 0xDD, 0xFB, 0x9D, 0xF8, 0xAC,
        0xDA, 0x16, 0x73, 0x4B]) = true := by decide +kernel

/-- V-PRF-7: keys but no hash. -/
theorem test_prf_nohash : steps (pend stateSK 0x00000018#32 0 16 0) (fun t => t.errcode == 0x03#8) = true := by
  decide +kernel

/-- V-CORE-15: one pair and a 5-byte fragment, in place. -/
theorem test_enc : steps (pend (stateD0 0x400 (rampBytes 69)) 0x00000020#32 0x400 0x400 69)
    (fun t => t.memRead 0x400 69 ==
      bytesOfBlock 0x00012090F75892D2820BE55DCD98669F#128 ++ bytesOfBlock 0x763A8DF129387FD46FA9FD1EE91E14C5#128
        ++ bytesOfBlock 0x598242713D17452772AEA6ECC72BDAC2#128 ++ bytesOfBlock 0xBA0256CCF63BF482300373624DC261B2#128
        ++ [0x32, 0xA2, 0xAD, 0x33, 0xE7]) = true := by decide +kernel

/-- LEN at 31 bytes (program P4). -/
theorem test_enc_len : steps (pend (stateD0 0 []) 0x00000020#32 0x100 0x200 31)
    (fun t => t.errcode == 0x05#8 && t.errcmd == 0x00000020#32) = true := by decide +kernel

/-- V-CORE-14: to another place. -/
theorem test_dec : steps (pend (stateD0 0x100 (List.replicate 32 0#8)) 0x00000021#32 0x100 0x200 32)
    (fun t => t.memRead 0x200 32 ==
      bytesOfBlock 0x1D2DAE1807347ADA37C5AD44AD8A4779#128 ++ bytesOfBlock 0x75E8B33F43D565C2184A37E9889FED9A#128)
    = true := by decide +kernel

/-- OVERLAP (program P4). -/
theorem test_dec_overlap : steps (pend (stateD0 0 []) 0x00000021#32 0x200 0x210 48)
    (fun t => t.errcode == 0x07#8 && t.errcmd == 0x00000021#32) = true := by decide +kernel

/-! ### One host access, against the same vectors -/

/-- `s` with the host access `a` to come. -/
def hostDoes (s : State) (a : HostAccess) : State := { s with script := [.access a] }

/-- The example of R46: word 1 of the block 00 01 … 0F. -/
theorem test_read_word : steps (hostDoes (State.reset.setB 2 ramp) (.read 0x124 4))
    (fun t => t.rdata == 0x07060504#32) = true := by decide +kernel

/-- V-KEY-3: KI reads 0. -/
theorem test_read_key : steps (hostDoes stateSK (.read 0x200 4)) (fun t => t.rdata == 0#32 && t.ki == ramp) = true := by
  decide +kernel

/-- V-ERR-2: W1C of ERR clears ERRCODE and leaves DONE. -/
theorem test_clear_err : steps (hostDoes { State.reset with done := true, err := true, errcode := 0x01#8 }
    (.write 0x00C 4 0x00000004#32)) (fun t => t.statusWord == 0x00000002#32) = true := by decide +kernel

/-- V-OVR-1, the engine not having completed: the ARG0 write is dropped and OVR set. -/
theorem test_overrun : steps (hostDoes (pend stateSK 0x00000020#32 0x400 0x800 64) (.write 0x020 4 5#32))
    (fun t => t.ovr && t.arg == #v[0x400, 0x800, 64, 0] && t.busy) = true := by decide +kernel

/-- V-RST-3: SRST with IRQ_EN while idle leaves CTRL 0 and DMEM as it was. -/
theorem test_soft_reset : steps (hostDoes (stateD0 3 [0x11, 0x22]) (.write 0x008 4 3#32))
    (fun t => t.ctrlWord == 0#32 && t.statusWord == 0#32 && t.ki == 0#128 && t.dmem == [(3, 0x11), (4, 0x22)]) = true := by
  decide +kernel

/-! ### Witnesses: states and operands that meet the hypotheses of the statements -/

/-- SK loaded on a platform whose window lies elsewhere and whose DMEM is the smallest (64 bytes). -/
def small : State := { stateSK with params := { dmemLog := 0, blockBase := 0x40000000 } }

/-- `small` with ENC pending on operands that are in range. -/
def smallBusy : State := { small.issue 0x00000020#32 with script := [] }

/-- `s` with one host read to come. -/
def reads (s : State) (off n : Nat) : State := { s with script := [.access (.read (s.params.blockBase + off) n)] }

/-- `s` with one host write to come. -/
def writes (s : State) (off n : Nat) (v : Word) : State :=
  { s with script := [.access (.write (s.params.blockBase + off) n v)] }

/-- A state with operands ARG0..ARG2 sampled for command word `w`. -/
def sampled (s : State) (w a0 a1 a2 : Word) : State := { pend s w a0 a1 a2 with script := [] }

/-- Some next state of a command. -/
theorem exec_some (i : Instr) (s : State) : ∃ t, exec i s = .next t := by
  rcases exec_completes i s with ⟨e, h⟩ | ⟨u, h⟩
  · exact ⟨_, h⟩
  · exact ⟨_, h⟩

theorem witness_DecodeInvertsEncode :
    (Instr.xor 7 0 7).wellFormed = true ∧ (Instr.ldkey 7 2).wellFormed = true ∧
    (Instr.ldrk 7 0 true).wellFormed = true ∧ (Instr.ldrk 7 3 false).wellFormed = true := by decide

theorem witness_EncodeInvertsDecode :
    decode 0x00477006#32 = .error .unusedField ∧ decode 0x00407006#32 = .ok (.ldrk 7 0 true) ∧
    decode 0x00077704#32 = .ok (.aesr 7 7 7) := by decide +kernel

theorem witness_IllegalWordsAreRejected :
    (∀ c ∈ usesTable, c.1 ≠ (opcOf 0x0000000F#32).toNat) ∧ 0x00000808#32 &&& 0xFF888800#32 ≠ 0#32 ∧
    ((0x08, [.rd]) ∈ usesTable ∧ (opcOf 0x00001008#32).toNat = 0x08 ∧ Field.ra ∉ [Field.rd] ∧
      0x00001008#32 &&& Field.ra.mask ≠ 0#32) ∧
    (opcOf 0x00303007#32 = 0x07#8 ∧ fOf 0x00303007#32 = 3) ∧
    (opcOf 0x00500006#32 = 0x06#8 ∧ allOf 0x00500006#32 = true ∧ fOf 0x00500006#32 ≠ 0) := by decide +kernel

theorem witness_StepRunsTheDecodedCommand :
    ∃ p, (sampled stateSK 0x00000020#32 0 0 32).pending = some p ∧ decode p.cw = .ok .enc ∧
      (sampled stateSK 0x00000020#32 0 0 32).script = [] ∧
      (pend stateSK 0x00000020#32 0 0 32).script = .engine :: [] ∧
      (reads smallBusy 0x00C 2).script = .access (.read 0x4000000C 2) :: [] ∧
      (HostAccess.read 0x4000000C 2).admitted small.params = false :=
  ⟨⟨0x00000020#32, #v[0, 0, 32, 0]⟩, rfl, by decide +kernel, rfl, rfl, rfl, by decide +kernel⟩

/-- The three paths to a completion: no move left, the engine next, and a host stuck on a narrow access to STATUS. -/
theorem witness_engineNext (w : Word) :
    EngineNext (sampled stateSK w 0 0 0) [] ∧ EngineNext (pend stateSK w 0 0 0) [] ∧
    EngineNext (reads (sampled small w 0 0 0) 0x00C 2) (reads (sampled small w 0 0 0) 0x00C 2).script :=
  ⟨Or.inl ⟨rfl, rfl⟩, Or.inr (Or.inl rfl), Or.inr (Or.inr ⟨_, _, rfl,
    (by decide +kernel : (HostAccess.read 0x4000000C 2).admitted small.params = false), rfl⟩)⟩

/-- An illegal word pending on each of these paths. -/
theorem witness_IllegalWordCompletesWithIllegal :
    ∀ s ∈ [sampled stateSK 0x808#32 0 0 0, pend stateSK 0x808#32 0 0 0, reads (sampled small 0x808#32 0 0 0) 0x00C 2],
      s.pending = some ⟨0x00000808#32, #v[0, 0, 0, 0]⟩ ∧ decode 0x00000808#32 = .error .reservedBit := by
  decide +kernel

theorem witness_IdleEngineAndStuckHost :
    (small.pending = none ∧ small.script = []) ∧
    ({ small with script := [.engine] } : State).pending = none ∧
    ((reads small 0x00D 4).pending = none ∧
      (reads small 0x00D 4).script = .access (.read 0x4000000D 4) :: [] ∧
      (HostAccess.read 0x4000000D 4).admitted small.params = false) ∧
    ((reads smallBusy 0x200000 4).pending = some ⟨0x00000020#32, Vector.replicate 4 0#32⟩ ∧
      (HostAccess.read 0x40200000 4).admitted small.params = false) := by decide +kernel

theorem witness_CmdWriteIssues :
    NextWrite (writes small 0x010 4 0x808#32) 0x010 4 0x808#32 [] ∧ (writes small 0x010 4 0x808#32).busy = false ∧
    NextWrite (writes smallBusy 0x010 4 0#32) 0x010 4 0#32 [] ∧ (writes smallBusy 0x010 4 0#32).busy = true :=
  ⟨rfl, rfl, rfl, rfl⟩

theorem witness_IssueThenCompletion :
    ∃ s : State, s.busy = false ∧ NextWrite s 0x010 4 0x00000010#32 [.engine] ∧
      decode 0x00000010#32 = .ok .hinit :=
  ⟨{ small with script := [.access (.write 0x40000010 4 0x00000010#32), .engine] }, rfl, rfl, by decide +kernel⟩

theorem witness_NopOnlyCompletes : opcOf 0x80000000#32 = 0x00#8 ∧ 0x80000000#32 ≠ 0x00000000#32 := by decide

theorem witness_DblResult : (stateSK.setB 1 blockY |>.getB 1).msb = true ∧ (stateSK.getB 0).msb = false := by
  decide +kernel

/-- The four columns of AESR's clause by bytes. -/
theorem witness_AesrResult : (0 : Nat) < 4 ∧ (3 : Nat) < 4 := by decide

theorem witness_MuliResult :
    (sampled stateSK 0x00000103#32 0 0 0).issued.arg[(0 : Fin 4)] = 0#32 ∧
    (sampled stateSK 0x00000103#32 1 0 0).issued.arg[(0 : Fin 4)] = 1#32 := by decide +kernel

/-- LDRK's three forms: one register, all four, and the illegal pair. -/
theorem witness_LdrkResult :
    ((false = false ∨ (3 : Fin 4) = 0) ∧ (true = false ∨ (0 : Fin 4) = 0)) ∧ (true = true ∧ (3 : Fin 4) ≠ 0) := by
  decide

/-- Keys loaded and a legal tweak. -/
def tweakReady (s : State) : Prop := s.kw = 0b111#3 ∧ LegalTweak s

/-- Legal tweaks at the edges: i = -1, 0, 1 and 2 with j = 1, 3 with j = 0 and 1, and the largest i and j. -/
theorem witness_OfsResult :
    tweakReady (sampled stateSK 0x8#32 0 0xFFFFFFFF 0) ∧ tweakReady (sampled stateSK 0x8#32 0 0 0) ∧
    tweakReady (sampled stateSK 0x8#32 1 1 0) ∧ tweakReady (sampled stateSK 0x8#32 1 2 0) ∧
    tweakReady (sampled stateSK 0x8#32 0 3 0) ∧ tweakReady (sampled stateSK 0x8#32 1 3 0) ∧
    tweakReady (sampled stateSK 0x8#32 0xFFFFFFFF 0x7FFFFFFF 0) := by
  unfold tweakReady LegalTweak
  decide +kernel

/-- The three clauses of E: i = -1; i = 0 and i = 2; i = 3 and the largest i. -/
theorem witness_TweakableCipherResult :
    (∀ s ∈ [sampled stateSK 0x9#32 3 0xFFFFFFFF 0], tweakReady s ∧ s.issued.arg[(1 : Fin 4)].toInt = -1) ∧
    (∀ s ∈ [sampled stateSK 0x9#32 0 0 0, sampled stateSK 0x9#32 1 2 0],
      tweakReady s ∧ 0 ≤ s.issued.arg[(1 : Fin 4)].toInt ∧ s.issued.arg[(1 : Fin 4)].toInt < 3) ∧
    (∀ s ∈ [sampled stateSK 0x9#32 0 3 0, sampled stateSK 0x9#32 0 0x7FFFFFFF 0],
      tweakReady s ∧ 3 ≤ s.issued.arg[(1 : Fin 4)].toInt) := by
  unfold tweakReady LegalTweak
  decide +kernel

/-- The last address in range and the first one out of it, in the smallest DMEM. -/
theorem witness_LdbResult :
    (∀ s ∈ [sampled small 0x40C#32 48 0 0], s.issued.arg[(0 : Fin 4)].toNat + 16 ≤ s.params.dmemSize) ∧
    (∀ s ∈ [sampled small 0x40C#32 49 0 0], s.issued.arg[(0 : Fin 4)].toNat + 16 > s.params.dmemSize) := by
  decide +kernel

theorem witness_StbResult :
    (∀ s ∈ [sampled small 0x400D#32 48 0 0], s.issued.arg[(0 : Fin 4)].toNat + 16 ≤ s.params.dmemSize) ∧
    (∀ s ∈ [sampled small 0x400D#32 0xFFFFFFFF 0 0], s.issued.arg[(0 : Fin 4)].toNat + 16 > s.params.dmemSize) := by
  decide +kernel

theorem witness_HinitResult : stateSK.kw = 0b111#3 ∧ State.reset.kw ≠ 0b111#3 := by decide +kernel

/-- Keys, a hash, a legal tweak index and a range in DMEM: what HABS needs. -/
def habsReady (s : State) : Prop :=
  s.kw = 0b111#3 ∧ s.hashv = true ∧ 3 ≤ s.issued.arg[(2 : Fin 4)].toNat ∧
    s.issued.arg[(0 : Fin 4)].toNat + s.issued.arg[(1 : Fin 4)].toNat ≤ s.params.dmemSize

/-- i = 3 and a range that ends at DMEM's end; the nonce, i = 4, on the τ block; the first AD element, i = 5. -/
theorem witness_HabsResult :
    habsReady (sampled (stateD0 0 []) 0x11#32 65535 1 3) ∧
    (∀ s ∈ [sampled (stateD0 0 []) 0x11#32 0 12 4], habsReady s ∧ s.issued.arg[(2 : Fin 4)].toNat = 4 ∧
      s.delta = cipherE stateSK.subkeys 3 1 ((128#32).setWidth 128)) ∧
    (∀ s ∈ [sampled { stateD0 0 [] with delta := 0x0F0FB386417408EFBAE48CF9C7BEE60C#128 } 0x11#32 0 0 5],
      habsReady s ∧ s.issued.arg[(2 : Fin 4)].toNat = 5 + ([] : List (List Byte)).length ∧
      s.delta = aezHash stateSK.subkeys 128#32 (List.replicate 12 0#8) []) := by
  unfold habsReady
  decide +kernel

theorem witness_PrfResult :
    (sampled (stateD0 0 []) 0x18#32 65520 16 0).kw = 0b111#3 ∧ (sampled (stateD0 0 []) 0x18#32 65520 16 0).hashv = true ∧
    (sampled (stateD0 0 []) 0x18#32 65520 16 0).issued.arg[(0 : Fin 4)].toNat
      + (sampled (stateD0 0 []) 0x18#32 65520 16 0).issued.arg[(1 : Fin 4)].toNat
        ≤ (sampled (stateD0 0 []) 0x18#32 65520 16 0).params.dmemSize := by decide +kernel

/-- In place, side by side in either order, and 32 bytes at DMEM's end. -/
theorem witness_EncResult :
    CoreReady (sampled (stateD0 0 []) 0x20#32 0x400 0x400 32) ∧ CoreReady (sampled (stateD0 0 []) 0x20#32 0x400 0x420 32) ∧
    CoreReady (sampled (stateD0 0 []) 0x20#32 0x420 0x400 32) ∧
    CoreReady (sampled (stateD0 0 []) 0x20#32 0 65504 32) := by
  refine ⟨⟨?_, ?_, ?_, ?_, ?_, ?_⟩, ⟨?_, ?_, ?_, ?_, ?_, ?_⟩, ⟨?_, ?_, ?_, ?_, ?_, ?_⟩, ⟨?_, ?_, ?_, ?_, ?_, ?_⟩⟩ <;>
    decide +kernel

theorem witness_DecResult : CoreReady (sampled (stateD0 0 []) 0x21#32 0x400 0x400 69) := by
  refine ⟨?_, ?_, ?_, ?_, ?_, ?_⟩ <;> decide +kernel

/-- No keys; i = -2; i = 1 and i = 2 with j = 0. -/
theorem witness_TweakCommandErrors :
    (∃ rd, Instr.ofs 7 = .ofs rd) ∧ (∃ rd ra, Instr.e 7 0 = .e rd ra) ∧
    (sampled State.reset 0x8#32 0 0 0).kw ≠ 0b111#3 ∧
    (∀ s ∈ [sampled stateSK 0x8#32 5 0xFFFFFFFE 0, sampled stateSK 0x8#32 0 1 0, sampled stateSK 0x8#32 0 2 0],
      s.kw = 0b111#3 ∧ ¬LegalTweak s) := by
  refine ⟨⟨7, rfl⟩, ⟨7, 0, rfl⟩, ?_⟩
  unfold LegalTweak
  decide +kernel

/-- Each error's own condition with every earlier one false: i = 2, and a range one byte too long. -/
theorem witness_HashAndPrfErrors :
    State.reset.kw ≠ 0b111#3 ∧ (stateSK.kw = 0b111#3 ∧ stateSK.hashv = false) ∧
    (∀ s ∈ [sampled (stateD0 0 []) 0x11#32 0 0 2],
      s.kw = 0b111#3 ∧ s.hashv = true ∧ s.issued.arg[(2 : Fin 4)].toNat < 3) ∧
    (∀ s ∈ [sampled (stateD0 0 []) 0x11#32 65535 2 3], s.kw = 0b111#3 ∧ s.hashv = true ∧
      3 ≤ s.issued.arg[(2 : Fin 4)].toNat ∧
      s.issued.arg[(0 : Fin 4)].toNat + s.issued.arg[(1 : Fin 4)].toNat > s.params.dmemSize) := by decide +kernel

/-- Each error's own condition with every earlier one false, at the edges of LEN, RANGE and OVERLAP. -/
theorem witness_CoreErrors :
    (Instr.enc = .enc ∨ Instr.enc = .dec) ∧ State.reset.kw ≠ 0b111#3 ∧
    (stateSK.kw = 0b111#3 ∧ stateSK.hashv = false) ∧
    (∀ s ∈ [sampled (stateD0 0 []) 0x20#32 0 0 31],
      s.kw = 0b111#3 ∧ s.hashv = true ∧ s.issued.arg[(2 : Fin 4)].toNat < 32) ∧
    (∀ s ∈ [sampled (stateD0 0 []) 0x20#32 0 65505 32], s.kw = 0b111#3 ∧ s.hashv = true ∧
      32 ≤ s.issued.arg[(2 : Fin 4)].toNat ∧
      s.issued.arg[(1 : Fin 4)].toNat + s.issued.arg[(2 : Fin 4)].toNat > s.params.dmemSize) ∧
    (∀ s ∈ [sampled (stateD0 0 []) 0x20#32 0x400 0x41F 32, sampled (stateD0 0 []) 0x20#32 0x41F 0x400 32],
      s.kw = 0b111#3 ∧ s.hashv = true ∧ 32 ≤ s.issued.arg[(2 : Fin 4)].toNat ∧
      s.issued.arg[(0 : Fin 4)] ≠ s.issued.arg[(1 : Fin 4)] ∧
      s.issued.arg[(0 : Fin 4)].toNat + s.issued.arg[(2 : Fin 4)].toNat ≤ s.params.dmemSize ∧
      s.issued.arg[(1 : Fin 4)].toNat + s.issued.arg[(2 : Fin 4)].toNat ≤ s.params.dmemSize ∧
      s.issued.arg[(0 : Fin 4)].toNat < s.issued.arg[(1 : Fin 4)].toNat + s.issued.arg[(2 : Fin 4)].toNat ∧
      s.issued.arg[(1 : Fin 4)].toNat < s.issued.arg[(0 : Fin 4)].toNat + s.issued.arg[(2 : Fin 4)].toNat) := by
  decide +kernel

theorem witness_OnlyListedErrors : ∃ t, exec .hinit State.reset = .next t := exec_some _ _

/-- A command that fails, and an illegal word, on the paths of `witness_engineNext`. -/
theorem witness_NoPartialEffects :
    (∃ t, step (sampled stateSK 0x20#32 0 0 0) = .next t ∧ t.errcode ≠ 0x00#8) ∧
    (∃ t, step (pend stateSK 0x808#32 0 0 0) = .next t ∧ t.errcode ≠ 0x00#8) ∧
    (∃ t, step (reads (sampled small 0x808#32 0 0 0) 0x00C 2) = .next t ∧ t.errcode ≠ 0x00#8) ∧
    (∀ s ∈ [sampled stateSK 0x20#32 0 0 0, pend stateSK 0x808#32 0 0 0, reads (sampled small 0x808#32 0 0 0) 0x00C 2],
      s.busy = true) :=
  ⟨⟨_, rfl, by decide +kernel⟩, ⟨_, rfl, by decide +kernel⟩, ⟨_, rfl, by decide +kernel⟩, by decide +kernel⟩

theorem witness_WhoWritesWhat :
    (∃ t, exec .enc (sampled (stateD0 0 []) 0x20#32 0 0 32) = .next t) ∧ writesBlocks .enc = false ∧
    writesKeys .enc = false ∧ writesRk .enc = false ∧ writesDelta .enc = false ∧ writesDmem .habs = false :=
  ⟨exec_some _ _, rfl, rfl, rfl, rfl, rfl⟩

theorem witness_OperandsAreSampled : ∃ p, (sampled stateSK 0x103#32 5 0 0).pending = some p := ⟨_, rfl⟩

theorem witness_IdAndVersionReadConstants :
    NextRead (reads smallBusy 0x000 4) 0x000 4 [] ∧ NextRead (reads small 0x004 4) 0x004 4 [] ∧
    NextWrite (writes smallBusy 0x000 4 5#32) 0x000 4 5#32 [] ∧ NextWrite (writes small 0x004 4 5#32) 0x004 4 5#32 [] :=
  ⟨rfl, rfl, rfl, rfl⟩

/-- The first and the last reserved word of the window, and of each hole of the map; the write-only registers. -/
theorem witness_ReservedAndWriteOnlyOffsets :
    (ReservedOffset small.params 0x018 ∧ ReservedOffset small.params 0x0FC ∧ ReservedOffset small.params 0x190 ∧
      ReservedOffset small.params 0x23C ∧ ReservedOffset small.params 0x280 ∧ ReservedOffset small.params 0xFFFFC ∧
      ReservedOffset small.params 0x100040 ∧ ReservedOffset small.params 0x1FFFFC) ∧
    NextRead (reads smallBusy 0x1FFFFC 4) 0x1FFFFC 4 [] ∧
    NextWrite (writes smallBusy 0x014 4 1#32) 0x014 4 1#32 [] ∧
    NextRead (reads small 0x22C 4) 0x22C 4 [] ∧ NextRead (reads small 0x240 4) 0x240 4 [] := by
  refine ⟨⟨?_, ?_, ?_, ?_, ?_, ?_, ?_, ?_⟩, rfl, rfl, rfl, rfl⟩ <;>
    · unfold ReservedOffset
      decide +kernel

/-- Busy states with any write, and any read, to come. -/
theorem witness_busy_accesses (off n : Nat) (v : Word) :
    ((writes smallBusy off n v).busy = true ∧ NextWrite (writes smallBusy off n v) off n v []) ∧
    ((reads smallBusy off n).busy = true ∧ NextRead (reads smallBusy off n) off n []) := ⟨⟨rfl, rfl⟩, rfl, rfl⟩

/-- Idle states with any write, and any read, to come. -/
theorem witness_idle_accesses (off n : Nat) (v : Word) :
    ((writes small off n v).busy = false ∧ NextWrite (writes small off n v) off n v []) ∧
    ((reads small off n).busy = false ∧ NextRead (reads small off n) off n []) := ⟨⟨rfl, rfl⟩, rfl, rfl⟩

/-- The first and the last dropped word of each range, the edges of DMEM, and CTRL with and without SRST. -/
theorem witness_BusyWritesAreDropped :
    (writes smallBusy 0x10003F 1 7#32).busy = true ∧
    NextWrite (writes smallBusy 0x10003F 1 7#32) (0x100000 + 63) 1 7#32 [] ∧
    DmemAccess (writes smallBusy 0x10003F 1 7#32) 63 1 ∧
    (DmemAccess small 62 2 ∧ DmemAccess small 60 4) ∧
    (DroppedOffset 0x010 ∧ DroppedOffset 0x02C ∧ DroppedOffset 0x100 ∧ DroppedOffset 0x18C ∧ DroppedOffset 0x22C ∧
      DroppedOffset 0x27C) ∧
    ((1#32).getLsbD 1 = false ∧ (3#32).getLsbD 1 = true) := by
  refine ⟨rfl, rfl, ?_, ?_, ?_, rfl, rfl⟩
  · unfold DmemAccess
    decide +kernel
  · unfold DmemAccess
    decide +kernel
  · unfold DroppedOffset
    decide +kernel

theorem witness_BusyReadsAreDraws :
    (reads smallBusy 0x100000 1).busy = true ∧ NextRead (reads smallBusy 0x100000 1) (0x100000 + 0) 1 [] ∧
    DmemAccess (reads smallBusy 0x100000 1) 0 1 ∧
    NextRead (reads smallBusy 0x02C 4) (0x020 + 4 * (3 : Fin 4).val) 4 [] ∧ NextRead (reads small 0x010 4) 0x010 4 [] ∧
    NextRead (reads small 0x014 4) 0x014 4 [] := by
  refine ⟨rfl, rfl, ?_, rfl, rfl, rfl⟩
  unfold DmemAccess
  decide +kernel

theorem witness_StatusBitsAndClearing :
    NextWrite (writes smallBusy 0x00C 4 0xE#32) 0x00C 4 0xE#32 [] ∧ NextRead (reads small 0x00C 4) 0x00C 4 [] :=
  ⟨rfl, rfl⟩

theorem witness_CtrlWrites :
    NextWrite (writes small 0x008 4 0xFFFFFFFD#32) 0x008 4 0xFFFFFFFD#32 [] ∧ (0xFFFFFFFD#32).getLsbD 1 = false ∧
    NextWrite (writes small 0x008 4 2#32) 0x008 4 2#32 [] ∧ (2#32).getLsbD 1 = true ∧
    NextRead (reads small 0x008 4) 0x008 4 [] := ⟨rfl, rfl, rfl, rfl, rfl⟩

theorem witness_InterruptLevel :
    (smallBusy.busy = true ∧ EngineNext smallBusy [] ∧ ∃ t, step smallBusy = .next t) ∧
    (∃ t, (writes { small with done := true } 0x008 4 1#32).script = .access (.write 0x40000008 4 1#32) :: [] ∧
      (HostAccess.write 0x40000008 4 1#32).admitted small.params = true ∧
      step (writes { small with done := true } 0x008 4 1#32) = .next t ∧ t.done = true) ∧
    (NextWrite (writes small 0x00C 4 2#32) 0x00C 4 2#32 [] ∧ (2#32).getLsbD 1 = true) ∧
    (NextWrite (writes small 0x008 4 2#32) 0x008 4 2#32 [] ∧ (2#32).getLsbD 0 = false) ∧
    (NextWrite (writes small 0x010 4 0#32) 0x010 4 0#32 [] ∧ (writes small 0x010 4 0#32).busy = false) :=
  ⟨⟨rfl, Or.inl ⟨rfl, rfl⟩, _, rfl⟩, ⟨_, rfl, by decide +kernel, rfl, rfl⟩, ⟨rfl, rfl⟩, ⟨rfl, rfl⟩, ⟨rfl, rfl⟩⟩

/-- The last word of the last register of each range, while idle (with `witness_idle_accesses`). -/
theorem witness_RegisterWordAccess :
    (writes small 0x02C 4 1#32).busy = false ∧
    NextWrite (writes small 0x02C 4 1#32) (0x020 + 4 * (3 : Fin 4).val) 4 1#32 [] ∧
    NextWrite (writes small 0x17C 4 1#32) (0x100 + 16 * (7 : Reg).val + 4 * (3 : Fin 4).val) 4 1#32 [] ∧
    NextWrite (writes small 0x18C 4 1#32) (0x180 + 4 * (3 : Fin 4).val) 4 1#32 [] ∧
    NextWrite (writes small 0x20C 4 1#32) (0x200 + 4 * (3 : Fin 4).val) 4 1#32 [] ∧
    NextWrite (writes small 0x21C 4 1#32) (0x210 + 4 * (3 : Fin 4).val) 4 1#32 [] ∧
    NextWrite (writes small 0x22C 4 1#32) (0x220 + 4 * (3 : Fin 4).val) 4 1#32 [] ∧
    NextWrite (writes small 0x27C 4 1#32) (0x240 + 16 * (3 : Fin 4).val + 4 * (3 : Fin 4).val) 4 1#32 [] ∧
    NextRead (reads small 0x020 4) (0x020 + 4 * (0 : Fin 4).val) 4 [] ∧
    NextRead (reads small 0x100 4) (0x100 + 16 * (0 : Reg).val + 4 * (0 : Fin 4).val) 4 [] ∧
    NextRead (reads small 0x180 4) (0x180 + 4 * (0 : Fin 4).val) 4 [] :=
  ⟨rfl, rfl, rfl, rfl, rfl, rfl, rfl, rfl, rfl, rfl, rfl⟩

theorem witness_DmemHostAccess :
    (writes small 0x10003E 2 0x1234#32).busy = false ∧ DmemAccess (writes small 0x10003E 2 0x1234#32) 62 2 ∧
    NextWrite (writes small 0x10003E 2 0x1234#32) (0x100000 + 62) 2 0x1234#32 [] ∧
    (reads small 0x10003F 1).busy = false ∧ DmemAccess (reads small 0x10003F 1) 63 1 ∧
    NextRead (reads small 0x10003F 1) (0x100000 + 63) 1 [] := by
  refine ⟨rfl, ?_, rfl, rfl, ?_, rfl⟩ <;>
    · unfold DmemAccess
      decide +kernel

theorem witness_ResetValues :
    ({ smallBusy with script := [.hardReset] } : State).script = .hardReset :: [] ∧
    NextWrite (writes small 0x008 4 3#32) 0x008 4 3#32 [] ∧ (3#32).getLsbD 1 = true ∧
    (writes small 0x008 4 3#32).busy = false := ⟨rfl, rfl, rfl, rfl⟩

/-- Soft reset over STB, PRF, ENC and a command without a write range. -/
theorem witness_SoftResetAborts :
    (∃ p, (writes (sampled small 0x400D#32 56 0 0) 0x008 4 2#32).pending = some p ∧ decode p.cw = .ok (.stb 4)) ∧
    (∃ p, (writes (sampled small 0x18#32 56 16 0) 0x008 4 2#32).pending = some p ∧ decode p.cw = .ok .prf) ∧
    (∃ p, (writes (sampled small 0x20#32 0 32 32) 0x008 4 2#32).pending = some p ∧ decode p.cw = .ok .enc) ∧
    (∃ p, (writes (sampled small 0xE#32 0 0 0) 0x008 4 2#32).pending = some p ∧ decode p.cw = .ok .zero) ∧
    NextWrite (writes (sampled small 0x20#32 0 32 32) 0x008 4 2#32) 0x008 4 2#32 [] ∧ (2#32).getLsbD 1 = true := by
  refine ⟨⟨_, rfl, ?_⟩, ⟨_, rfl, ?_⟩, ⟨_, rfl, ?_⟩, ⟨_, rfl, ?_⟩, rfl, rfl⟩ <;> decide +kernel

theorem witness_DoublingLaws : (7 : Nat) < 8 := by decide

theorem witness_TweakConsequences : 1 ≤ (1 : Nat) ∧ (3 : Int) ≤ 3 := by decide

/-- Legal tweaks at the edges. -/
theorem witness_CipherIsPermutation :
    legalTweak (-1) 0 = true ∧ legalTweak 0 0 = true ∧ legalTweak 1 1 = true ∧ legalTweak 2 1 = true ∧
    legalTweak 3 0 = true ∧ legalTweak 2147483647 4294967295 = true := by decide

/-- The shortest input, for which the runs of both directions exist. -/
theorem witness_CoreInverse :
    32 ≤ (rampBytes 32).length ∧ 32 ≤ (rampBytes 69).length ∧
    ∃ e c : CoreRun, e = coreRun stateSK.subkeys 0 blockD0 (splitInput (rampBytes 32)) ∧
      c = coreRun stateSK.subkeys 1 blockD0 (splitInput (wideBlock stateSK.subkeys 0 blockD0 (rampBytes 32))) :=
  ⟨by decide, by decide, _, _, rfl, rfl⟩

theorem witness_DecUndoesEnc :
    ∃ s t : State, CoreReady s ∧ exec .enc s = .next t := by
  obtain ⟨t, h⟩ := exec_some .enc (sampled (stateD0 0 []) 0x20#32 0 65504 32)
  exact ⟨_, t, witness_EncResult.2.2.2, h⟩

theorem witness_PrfKeystream : (32 : Nat) < 33 := by decide

theorem witness_HabsOfBlocks : (rampBytes 15).length < 16 ∧ ([] : List Byte).length < 16 := by decide

theorem witness_HabsOrderIrrelevant :
    ∃ (s s1 s2 t1 t2 : State) (x y : Vector Word 4), exec .habs (withHabs s x) = .next s1 ∧
      exec .habs (withHabs s1 y) = .next s2 ∧ exec .habs (withHabs s y) = .next t1 ∧
      exec .habs (withHabs t1 x) = .next t2 ∧ x ≠ y ∧ s.kw = 0b111#3 ∧ s.hashv = true := by
  obtain ⟨s1, h1⟩ := exec_some .habs (withHabs (stateD0 0 []) #v[0, 16, 4, 0])
  obtain ⟨s2, h2⟩ := exec_some .habs (withHabs s1 #v[16, 1, 5, 0])
  obtain ⟨t1, h3⟩ := exec_some .habs (withHabs (stateD0 0 []) #v[16, 1, 5, 0])
  obtain ⟨t2, h4⟩ := exec_some .habs (withHabs t1 #v[0, 16, 4, 0])
  exact ⟨_, s1, s2, t1, t2, _, _, h1, h2, h3, h4, by decide, rfl, rfl⟩

/-- A state of the invariant that is not the reset state: keys, a hash, a written byte and a command pending. -/
theorem witness_InvariantKept :
    (pend (stateD0 65535 [0x5A]) 0x0000000A#32 0 16 0).Inv ∧
    ∃ t, step (pend (stateD0 65535 [0x5A]) 0x0000000A#32 0 16 0) = .next t := by
  refine ⟨⟨by decide +kernel, by decide +kernel, ?_, ?_, ?_, ?_, ?_, ?_, ?_, ?_⟩, ?_⟩
  · rintro p ⟨rfl⟩
    exact ⟨rfl, rfl⟩
  · intro _
    exact ⟨rfl, rfl, rfl⟩
  · decide +kernel
  · decide +kernel
  · decide +kernel
  · decide +kernel
  · decide +kernel
  · decide +kernel
  · exact ⟨_, rfl⟩

/-- Two states with different keys and the host about to read KI. -/
theorem witness_KeysDoNotReachTheHost :
    SameButKeys (reads stateSK 0x200 4) { reads stateSK 0x200 4 with ki := blockY, kl := ramp } ∧
    (reads stateSK 0x200 4).script = .access (.read 0x200 4) :: [] ∧
    (HostAccess.read 0x200 4).admitted stateSK.params = true := ⟨rfl, rfl, by decide +kernel⟩

end Sys2Proof.Tests
end

section
/-! PROOFS. The read-only and reserved part of the register window (10_state.md R40, R41, R47). -/

open Sys2Proof.Certificates

namespace Sys2Proof.Machine

/-! ### Host accesses that BUSY does not affect -/

/-- A read of a target that R92 does not list returns its value, busy or not. -/
theorem hostRead_of_not_drawn (s : State) (t : Target) (n : Nat) (h : t.drawnWhileBusy = false) :
    s.hostRead t n = { s with rdata := s.readTarget t n } := by
  simp [State.hostRead, h]

/-- A write to a target that R340 does not drop is made, busy or not. -/
theorem hostWrite_of_not_dropped (s : State) (t : Target) (n : Nat) (v : Word) (h : t.droppedWhileBusy = false) :
    s.hostWrite t n v = s.writeTarget t n v := by
  simp [State.hostWrite, h]

/-- Reserved words and the write-only registers read 0 (R47). -/
theorem hostRead_zero (s : State) (t : Target) (n : Nat)
    (h : t = .reserved ∨ (∃ k w, t = .key k w) ∨ ∃ k w, t = .rk k w) :
    s.hostRead t n = { s with rdata := 0#32 } := by
  rcases h with rfl | ⟨k, w, rfl⟩ | ⟨k, w, rfl⟩ <;> exact hostRead_of_not_drawn s _ n rfl

/-- Reserved and read-only words ignore writes, and OVR stays as it was (R47). -/
theorem hostWrite_readOnly (s : State) (t : Target) (n : Nat) (v : Word)
    (h : t = .id ∨ t = .version ∨ t = .errcmd ∨ t = .reserved) : s.hostWrite t n v = s := by
  rcases h with rfl | rfl | rfl | rfl <;> exact hostWrite_of_not_dropped s _ n v rfl

/-! ### What the offsets name -/

/-- The holes of the CSR map (R45). -/
theorem csrOf_reserved (off : Nat)
    (h : (0x018 ≤ off ∧ off < 0x020) ∨ (0x030 ≤ off ∧ off < 0x100) ∨ (0x190 ≤ off ∧ off < 0x200) ∨
      (0x230 ≤ off ∧ off < 0x240) ∨ 0x280 ≤ off) : csrOf off = .reserved := by
  unfold csrOf
  -- no row but the one of CMD and ERRCMD shares sixteen bytes with a hole
  split <;> try omega
  · unfold csrCommand
    split <;> try omega
    rfl
  · rfl

/-- The rows of KI, KJ, KL and RK (R45). -/
theorem csrOf_key_or_rk (off : Nat) (h : (0x200 ≤ off ∧ off < 0x230) ∨ (0x240 ≤ off ∧ off < 0x280)) :
    (∃ k w, csrOf off = .key k w) ∨ ∃ k w, csrOf off = .rk k w := by
  have hrow : off / 16 = 0x20 ∨ off / 16 = 0x21 ∨ off / 16 = 0x22 ∨
      off / 16 = 0x24 ∨ off / 16 = 0x25 ∨ off / 16 = 0x26 ∨ off / 16 = 0x27 := by omega
  unfold csrOf
  rcases hrow with h | h | h | h | h | h | h <;> simp [h]

/-- A reserved offset lies in the window and names no register and no byte of DMEM. -/
theorem targetOf_reserved (p : Params) (off : Nat) (h : ReservedOffset p off) :
    off < 0x200000 ∧ targetOf p off = .reserved := by
  obtain ⟨-, h⟩ := h
  by_cases hcsr : off < 0x100000
  · exact ⟨by omega, (targetOf_csr p off hcsr).trans (csrOf_reserved off (by omega))⟩
  · exact ⟨by omega, targetOf_tail p off (by omega)⟩

/-- A word access at a reserved offset is admitted (R85). -/
theorem admitted_reserved (p : Params) (a : HostAccess) (off : Nat) (h : ReservedOffset p off)
    (haddr : a.addr = p.blockBase + off) (hb : a.bytes = 4) : a.admitted p = true := by
  obtain ⟨hin, ht⟩ := targetOf_reserved p off h
  obtain ⟨h4, -⟩ := h
  exact admitted_word p a off haddr hb hin (fun x => by simp [ht]) h4

/-! ### The steps -/

/-- The step on an aligned read of a CSR that R92 does not list. -/
theorem step_read_csr_not_drawn (s : State) (off : Nat) (rest : List Event) (h : off < 0x100000) (h4 : off % 4 = 0)
    (hd : (csrOf off).drawnWhileBusy = false) (hs : NextRead s off 4 rest) :
    step s = .next { s with script := rest, rdata := s.readTarget (csrOf off) 4 } := by
  rw [step_read_csr s off rest h h4 hs, hostRead_of_not_drawn _ _ _ hd]
  cases csrOf off <;> rfl

theorem step_read_reserved (s : State) (off : Nat) (rest : List Event) (h : ReservedOffset s.params off)
    (hs : NextRead s off 4 rest) : step s = .next { s with script := rest, rdata := 0#32 } := by
  rw [step_read s off 4 rest .reserved hs (admitted_reserved _ _ off h rfl rfl) (targetOf_reserved _ off h).2,
    hostRead_zero _ _ _ (.inl rfl)]

theorem step_write_reserved (s : State) (off : Nat) (v : Word) (rest : List Event) (h : ReservedOffset s.params off)
    (hs : NextWrite s off 4 v rest) : step s = .next { s with script := rest } := by
  rw [step_write s off 4 v rest .reserved hs (admitted_reserved _ _ off h rfl rfl) (targetOf_reserved _ off h).2,
    hostWrite_readOnly _ _ _ _ (by decide)]

/-- Writes to ID, VERSION and ERRCMD are ignored (R40, R41, R47). -/
theorem step_write_readOnly (s : State) (off : Nat) (v : Word) (rest : List Event)
    (h : off = 0x000 ∨ off = 0x004 ∨ off = 0x014) (hs : NextWrite s off 4 v rest) :
    step s = .next { s with script := rest } := by
  have ht : csrOf off = .id ∨ csrOf off = .version ∨ csrOf off = .errcmd ∨ csrOf off = .reserved := by
    rcases h with rfl | rfl | rfl <;> decide
  rw [step_write_csr s off v rest (by omega) (by omega) hs, hostWrite_readOnly _ _ _ _ ht]

theorem step_read_key_or_rk (s : State) (off : Nat) (rest : List Event) (h4 : off % 4 = 0)
    (h : (0x200 ≤ off ∧ off < 0x230) ∨ (0x240 ≤ off ∧ off < 0x280)) (hs : NextRead s off 4 rest) :
    step s = .next { s with script := rest, rdata := 0#32 } := by
  rw [step_read_csr s off rest (by omega) h4 hs, hostRead_zero _ _ _ (.inr (csrOf_key_or_rk off h))]

/-- Settles O39: reserved words, the read-only registers and the write-only registers each by their own step. -/
theorem reservedAndWriteOnlyOffsets : Obligations.ReservedAndWriteOnlyOffsets := by
  intro s rest off v
  refine ⟨step_read_reserved s off rest, ?_, step_read_key_or_rk s off rest⟩
  rintro (hres | hro) hs
  · exact step_write_reserved s off v rest hres hs
  · exact step_write_readOnly s off v rest hro hs

/-- Settles O38: neither register is drawn or dropped while BUSY = 1. -/
theorem idAndVersionReadConstants : Obligations.IdAndVersionReadConstants := fun s rest v =>
  ⟨step_read_csr_not_drawn s 0x000 rest (by decide) (by decide) rfl,
    step_read_csr_not_drawn s 0x004 rest (by decide) (by decide) rfl,
    step_write_readOnly s 0x000 v rest (by decide), step_write_readOnly s 0x004 v rest (by decide)⟩

end Sys2Proof.Machine
end

section
/-! PROOFS. NOP and DBL (40_doubling_block.md R140, R150, R152). -/

namespace Sys2Proof

/-! ### Words with opcode 0 -/

/-- A bit outside OPC and the fields its row reads makes a word illegal (R112). -/
theorem needFields_error (w : Word) (uses : List Field) (i : Instr) (h : w &&& ~~~(usedMask uses) ≠ 0#32) :
    ∃ r, needFields w uses i = .error r := by
  unfold needFields
  by_cases hres : w &&& reservedMask ≠ 0#32
  · exact ⟨.reservedBit, if_pos hres⟩
  · exact ⟨.unusedField, by rw [if_neg hres, if_pos h]⟩

theorem decode_opc_zero (w : Word) (h : opcOf w = 0x00#8) : decode w = needFields w [] .nop := by
  simp [decode, h]

/-- A command without fields may have OPC's bits set and no others. -/
theorem getLsbD_usedMask_nil (k : Nat) : (usedMask []).getLsbD k = decide (k < 8) := by
  have hmask : usedMask [] = (BitVec.allOnes 8).setWidth 32 := by decide
  rw [hmask, BitVec.getLsbD_setWidth, BitVec.getLsbD_allOnes, ← Bool.decide_and]
  exact decide_eq_decide.mpr (by omega)

/-- A word other than 0 with OPC = 0 has a bit outside OPC. -/
theorem unused_ne_zero_of_opc_zero (w : Word) (hopc : opcOf w = 0x00#8) (hw : w ≠ 0x00000000#32) :
    w &&& ~~~(usedMask []) ≠ 0#32 := by
  intro hrest
  refine hw (BitVec.eq_of_getLsbD_eq fun k hk => ?_)
  by_cases h8 : k < 8
  · simpa [opcOf, h8] using congrArg (fun v => BitVec.getLsbD v k) hopc
  · have hbit := congrArg (fun v => BitVec.getLsbD v k) hrest
    rw [BitVec.getLsbD_and, BitVec.getLsbD_not, getLsbD_usedMask_nil] at hbit
    simpa [h8, hk] using hbit

end Sys2Proof

namespace Sys2Proof.Machine

/-! ### The step on a command placed at CMD -/

theorem engineTurn_of_legal (s : State) (p : Pending) (i : Instr) (hp : s.pending = some p)
    (hd : decode p.cw = .ok i) : s.engineTurn = exec i s := by
  simp [State.engineTurn, State.runWord, hp, hd]

/-- A legal word placed as the pending command, the engine's turn next: the step is its meaning (R311, R312). -/
theorem step_withFetchWord (s : State) (nbits w : Nat) (i : Instr)
    (hd : decode (BitVec.ofNat 32 (w % 2 ^ nbits)) = .ok i) :
    step (s.withFetchWord nbits w) = exec i { s.withFetchWord nbits w with script := s.script } := by
  rw [step_engineNext _ s.script rfl (.inr (.inl rfl)), engineTurn_of_legal _ _ i rfl hd]

/-! ### NOP and DBL -/

/-- NOP completes, and its completion is all it does. -/
theorem exec_nop_completes (s : State) : exec .nop s = .next s.complete :=
  (exec_nop s).trans (finish_of_pass s s [] (by simp))

/-- DBL completes with the doubling of B[RA] in B[RD] as its only write. -/
theorem exec_dbl_completes (rd ra : Reg) (s : State) :
    exec (.dbl rd ra) s = .next (s.setB rd (dbl (s.getB ra))).complete :=
  (exec_dbl rd ra s).trans (finish_of_pass _ _ [] (by simp))

theorem dbl_of_msb (x : Block) (h : x.msb = true) : dbl x = (x <<< 1) ^^^ 0x87#128 :=
  if_pos (x.msb_eq_getLsbD_last.symm.trans h)

theorem dbl_of_not_msb (x : Block) (h : x.msb = false) : dbl x = x <<< 1 :=
  if_neg (ne_true_of_eq_false (x.msb_eq_getLsbD_last.symm.trans h))

/-- Settles O10: the word by its two decoder cases, the effect by NOP's completion, the example by one step. -/
theorem nopOnlyCompletes : Obligations.NopOnlyCompletes := by
  refine ⟨by decide, fun w hopc hw => ?_, fun s => ?_, ?_⟩
  · rw [decode_opc_zero w hopc]
    exact needFields_error w [] .nop (unused_ne_zero_of_opc_zero w hopc hw)
  · obtain ⟨hkept, herr, herrcmd⟩ := writesOf_kept .nop s
    exact ⟨s.complete, exec_nop_completes s, fun _ => rfl, ⟨rfl, rfl, rfl, rfl⟩, fun _ => rfl, ⟨rfl, rfl⟩,
      fun _ => rfl, succeeded_complete s s hkept herr herrcmd⟩
  · rw [step_withFetchWord State.reset 32 0x00000000 .nop (by decide), exec_nop_completes]
    exact ⟨_, rfl, by decide⟩

/-- Settles O11: DBL's one write, with the doubling by the top bit of B[RA]. -/
theorem dblResult : Obligations.DblResult := by
  intro s rd ra
  have hwrites := writesBlock_setB s rd (dbl (s.getB ra))
  exact ⟨_, exec_dbl_completes rd ra s, fun h => dbl_of_msb _ h ▸ hwrites, fun h => dbl_of_not_msb _ h ▸ hwrites⟩

end Sys2Proof.Machine
end

section
/-! PROOFS. AESR, byte by byte (41_aes.md R170 to R175, R180). -/

open Sys2Proof.Certificates

namespace Sys2Proof.Machine

/-! ### The products of MixColumns -/

/-- The model reduces when bit 7 is set, the product of R173 when the byte is at least 0x80: one condition. -/
theorem xtime_eq_gf8Double (a : Byte) : xtime a = gf8Double a := by
  have hbit : a.getLsbD 7 = decide (a.toNat ≥ 0x80) := a.msb_eq_getLsbD_last.symm.trans (BitVec.msb_eq_decide a)
  rw [xtime, gf8Double, hbit]
  simp only [decide_eq_true_eq]

theorem times3_eq_gf8Triple (a : Byte) : times3 a = gf8Triple a := by
  rw [times3, gf8Triple, xtime_eq_gf8Double]

/-! ### A column of the round, `b[r + 4c]` being row r of column c (R170) -/

/-- Row r of column c after SubBytes and ShiftRows (R171, R172). -/
def substitutedByte (x : Block) (c r : Nat) : Byte := sbox (byteOf x (r + 4 * ((c + r) % 4)))

theorem byteOf_shiftRows_subBytes (x : Block) (c r : Nat) (hc : c < 4) (hr : r < 4) :
    byteOf (shiftRows (subBytes x)) (4 * c + r) = substitutedByte x c r := by
  have hrow : (4 * c + r) % 4 = r := by omega
  have hcol : (4 * c + r) / 4 = c := by omega
  rw [byteOf_shiftRows _ _ (by omega), hrow, hcol, byteOf_subBytes _ _ (by omega), substitutedByte]

/-- A byte of MixColumns, by its row and column. -/
theorem byteOf_mixColumns_column (x : Block) (c r : Nat) (hc : c < 4) (hr : r < 4) :
    byteOf (mixColumns x) (4 * c + r) =
      mixRow r (byteOf x (4 * c)) (byteOf x (4 * c + 1)) (byteOf x (4 * c + 2)) (byteOf x (4 * c + 3)) := by
  have hrow : (4 * c + r) % 4 = r := by omega
  have hcol : (4 * c + r) / 4 = c := by omega
  rw [byteOf_mixColumns _ _ (by omega), hrow, hcol]

theorem byteOf_aesRound (x k : Block) (c r : Nat) (hc : c < 4) (hr : r < 4) :
    byteOf (aesRound x k) (4 * c + r) =
      mixRow r (substitutedByte x c 0) (substitutedByte x c 1) (substitutedByte x c 2) (substitutedByte x c 3) ^^^
        byteOf k (4 * c + r) := by
  have hbytes := fun i => byteOf_shiftRows_subBytes x c i hc
  have hzero : byteOf (shiftRows (subBytes x)) (4 * c) = substitutedByte x c 0 := hbytes 0 (by decide)
  rw [aesRound, addRoundKey, byteOf_xor, byteOf_mixColumns_column _ c r hc hr, hzero, hbytes 1 (by decide),
    hbytes 2 (by decide), hbytes 3 (by decide)]

/-- Row 0 of a column is not rotated. -/
theorem substitutedByte_row_zero (x : Block) (c : Nat) (hc : c < 4) :
    substitutedByte x c 0 = sbox (byteOf x (4 * c)) := by
  rw [substitutedByte, Nat.zero_add, Nat.add_zero, Nat.mod_eq_of_lt hc]

/-! ### AESR -/

/-- AESR completes with the round of B[RA] under B[RB] in B[RD] as its only write. -/
theorem exec_aesr_completes (rd ra rb : Reg) (s : State) :
    exec (.aesr rd ra rb) s = .next (s.setB rd (aesRound (s.getB ra) (s.getB rb))).complete :=
  (exec_aesr rd ra rb s).trans (finish_of_pass _ _ [] (by simp))

/-- Settles O14: AESR's one write, and the four rows of a column of the round it writes. -/
theorem aesrResult : Obligations.AesrResult := by
  intro s rd ra rb
  have hwrites := writesBlock_setB s rd (aesRound (s.getB ra) (s.getB rb))
  refine ⟨_, exec_aesr_completes rd ra rb s, hwrites, ?_⟩
  rintro c a0 a1 a2 a3 hc h0 rfl rfl rfl
  rw [← substitutedByte_row_zero _ c hc] at h0
  subst h0
  have hrow := byteOf_aesRound (s.getB ra) (s.getB rb) c
  simp only [← xtime_eq_gf8Double, ← times3_eq_gf8Triple, hwrites.result]
  exact ⟨hrow 0 hc (by decide), hrow 1 hc (by decide), hrow 2 hc (by decide), hrow 3 hc (by decide)⟩

end Sys2Proof.Machine
end

section
/-! PROOFS. OFS (42_tweak_cipher.md R201, R202, R210). -/

open Sys2Proof.Certificates

namespace Sys2Proof.Machine

/-! ### The lines of Ofs(i, j) (R201) -/

theorem ofs_low (k : Subkeys) (i : Int) (j : Nat) (hi : i = -1 ∨ i = 0) : ofs k i j = gfMul j k.j := if_pos hi

theorem ofs_core (k : Subkeys) (i : Int) (j : Nat) (hi : i = 1 ∨ i = 2) :
    ofs k i j = gfMul (j % 8) k.j ^^^ pow2 ((j - 1) / 8) k.l := by
  rw [ofs, if_neg (by omega), if_pos hi]

theorem ofs_high_zero (k : Subkeys) (i : Int) (j : Nat) (hi : 3 ≤ i) (hj : j = 0) :
    ofs k i j = gfMul (8 * (i - 2)).toNat k.j := by
  rw [ofs, if_neg (by omega), if_neg (by omega), if_pos hj]

theorem ofs_high_pos (k : Subkeys) (i : Int) (j : Nat) (hi : 3 ≤ i) (hj : 1 ≤ j) :
    ofs k i j = gfMul (8 * (i - 2)).toNat k.j ^^^ gfMul (j % 8) k.j ^^^ pow2 ((j - 1) / 8) k.l := by
  rw [ofs, if_neg (by omega), if_neg (by omega), if_neg (by omega)]

/-! ### OFS -/

/-- With the keys loaded and a legal tweak neither check of OFS and E fires. -/
theorem State.tweakChecks_pass (s : State) (hk : s.kw = 0b111#3) (hl : LegalTweak s) :
    ∀ c ∈ s.tweakChecks, c.1 = false := by
  have hkeyv : s.keyv = true := s.keyv_iff.mpr hk
  have hlegal : legalTweak s.tweakI s.tweakJ = true := s.legalTweak_issued.mpr hl
  simp [State.tweakChecks, hkeyv, hlegal]

/-- OFS completes with Ofs(i, j) in B[RD] as its only write. -/
theorem exec_ofs_completes (rd : Reg) (s : State) (hk : s.kw = 0b111#3) (hl : LegalTweak s) :
    exec (.ofs rd) s = .next (s.setB rd (ofs s.subkeys s.tweakI s.tweakJ)).complete :=
  (exec_ofs rd s).trans (finish_of_pass _ _ _ (s.tweakChecks_pass hk hl))

/-- Settles O18: OFS's one write, with the offset by the lines of R201. -/
theorem ofsResult : Obligations.OfsResult := by
  rintro s rd i j hk hl rfl rfl
  have hwrites := writesBlock_setB s rd (ofs s.subkeys s.tweakI s.tweakJ)
  refine ⟨_, exec_ofs_completes rd s hk hl, fun hi => ?_, fun hi => ?_, fun hi hj => ?_, fun hi hj => ?_⟩
  · exact ofs_low s.subkeys _ _ hi ▸ hwrites
  · exact ofs_core s.subkeys _ _ hi ▸ hwrites
  · exact ofs_high_zero s.subkeys _ _ hi hj ▸ hwrites
  · exact ofs_high_pos s.subkeys _ _ hi hj ▸ hwrites

end Sys2Proof.Machine
end

section
/-! PROOFS. Habs of a string given as its full blocks and its rest (43_hash.md R231). -/

namespace Sys2Proof.Machine

/-! ### The string of some full blocks and a rest -/

theorem length_flatMap_bytesOfBlock (blocks : List Block) :
    (blocks.flatMap bytesOfBlock).length = 16 * blocks.length := by
  simp [List.length_flatMap, Nat.mul_comm]

theorem drop_flatMap_bytesOfBlock_append (blocks : List Block) (rest : List Byte) :
    (blocks.flatMap bytesOfBlock ++ rest).drop (16 * blocks.length) = rest := by
  rw [← length_flatMap_bytesOfBlock, List.drop_left]

/-- A block followed by a string is read back at 0. -/
theorem blockAt_bytesOfBlock_append_zero (x : Block) (s : List Byte) : blockAt (bytesOfBlock x ++ s) 0 = x := by
  rw [blockAt, List.drop_zero, List.take_left' (length_bytesOfBlock x), blockOfBytes_bytesOfBlock]

/-- Past a leading block, reading is reading the string after it. -/
theorem blockAt_bytesOfBlock_append_add (x : Block) (s : List Byte) (a : Nat) :
    blockAt (bytesOfBlock x ++ s) (a + 16) = blockAt s a := by
  rw [blockAt, blockAt, Nat.add_comm, ← List.drop_drop, List.drop_left' (length_bytesOfBlock x)]

/-- Block t of the string is its t-th full block, whatever follows them. -/
theorem blockAt_flatMap_bytesOfBlock_append (blocks : List Block) (rest : List Byte) (t : Nat)
    (ht : t < blocks.length) :
    blockAt (blocks.flatMap bytesOfBlock ++ rest) (16 * t) = blocks[t] := by
  induction blocks generalizing t with
  | nil => exact absurd ht t.not_lt_zero
  | cons x xs ih =>
    rw [List.flatMap_cons, List.append_assoc]
    cases t with
    | zero => exact blockAt_bytesOfBlock_append_zero x _
    | succ t =>
      rw [Nat.mul_succ, blockAt_bytesOfBlock_append_add, List.getElem_cons_succ]
      exact ih t (Nat.lt_of_succ_lt_succ ht)

/-! ### Habs -/

theorem foldl_xor_eq_xorAll_map {α : Type} (f : α → Block) (l : List α) (acc : Block) :
    l.foldl (fun acc t => acc ^^^ f t) acc = acc ^^^ xorAll (l.map f) := by
  induction l generalizing acc with
  | nil => simp
  | cons a l ih => rw [List.foldl_cons, ih, List.map_cons, xorAll_cons, BitVec.xor_assoc]

/-- The accumulator after the full blocks is the XOR of their ciphers. -/
theorem habsFull_eq_xorAll (k : Subkeys) (i : Int) (s : List Byte) :
    habsFull k i s = xorAll ((List.range (s.length / 16)).map fun t => cipherE k i (t + 1) (blockAt s (16 * t))) := by
  rw [habsFull, foldl_xor_eq_xorAll_map, BitVec.zero_xor]

theorem length_div_of_blocks (blocks : List Block) (rest : List Byte) (hrest : rest.length < 16) :
    (blocks.flatMap bytesOfBlock ++ rest).length / 16 = blocks.length := by
  rw [List.length_append, length_flatMap_bytesOfBlock]
  omega

/-- A rest of fewer than 16 bytes adds nothing to the accumulator of the full blocks. -/
theorem habsFull_of_blocks (k : Subkeys) (i : Int) (blocks : List Block) (rest : List Byte) (hrest : rest.length < 16) :
    habsFull k i (blocks.flatMap bytesOfBlock ++ rest) =
      xorAll (blocks.mapIdx fun t x => cipherE k i (t + 1) x) := by
  rw [habsFull_eq_xorAll, length_div_of_blocks blocks rest hrest]
  refine congrArg xorAll (List.ext_getElem (by simp) fun t _ ht => ?_)
  rw [List.length_mapIdx] at ht
  rw [List.getElem_map, List.getElem_range, List.getElem_mapIdx, blockAt_flatMap_bytesOfBlock_append blocks rest t ht]

/-- A padded block is due exactly when there is a rest or no full block. -/
theorem padded_iff_of_blocks (blocks : List Block) (rest : List Byte) (hrest : rest.length < 16) :
    ((blocks.flatMap bytesOfBlock ++ rest).length % 16 > 0 ∨ (blocks.flatMap bytesOfBlock ++ rest).length = 0) ↔
      ¬ (rest.length = 0 ∧ 0 < blocks.length) := by
  rw [List.length_append, length_flatMap_bytesOfBlock]
  omega

/-- Settles O56: the full blocks give the XOR, and the padded block is the rest's, or absent. -/
theorem habsOfBlocks : Obligations.HabsOfBlocks := by
  intro k i blocks rest hrest
  rw [habs, length_div_of_blocks blocks rest hrest, drop_flatMap_bytesOfBlock_append,
    habsFull_of_blocks k i blocks rest hrest]
  simp only [padded_iff_of_blocks blocks rest hrest]
  by_cases hnone : rest.length = 0 ∧ 0 < blocks.length
  · rw [if_neg (not_not_intro hnone), if_pos hnone, BitVec.xor_zero]
  · rw [if_pos hnone, if_neg hnone]

end Sys2Proof.Machine
end

section
/-! PROOFS. The keystream Prf(Δ, n), byte by byte (44_prf.md R250). -/

namespace Sys2Proof.Machine

/-! ### The bytes of a string of blocks -/

theorem getElem?_bytesOfBlock (x : Block) (k : Nat) (hk : k < 16) : (bytesOfBlock x)[k]? = some (byteOf x k) := by
  simp [bytesOfBlock, hk]

/-- Block c of a string of blocks covers its bytes 16c .. 16c+15. -/
theorem getElem?_flatMap_bytesOfBlock (blocks : List Block) (b : Nat) :
    (blocks.flatMap bytesOfBlock)[b]? = blocks[b / 16]?.map fun x => byteOf x (b % 16) := by
  induction blocks generalizing b with
  | nil => rfl
  | cons x xs ih =>
    rw [List.flatMap_cons]
    rcases Nat.lt_or_ge b 16 with hb | hb
    · have hleft : b < (bytesOfBlock x).length := by rwa [length_bytesOfBlock]
      rw [List.getElem?_append_left hleft, getElem?_bytesOfBlock x b hb, Nat.div_eq_of_lt hb, Nat.mod_eq_of_lt hb]
      rfl
    · obtain ⟨c, rfl⟩ := Nat.exists_eq_add_of_le' hb
      have hright : (bytesOfBlock x).length ≤ c + 16 := by rwa [length_bytesOfBlock]
      rw [List.getElem?_append_right hright, length_bytesOfBlock, Nat.add_sub_cancel, ih,
        Nat.add_div_right c (by decide), Nat.add_mod_right, List.getElem?_cons_succ]

/-! ### The keystream -/

/-- Prf is the string of its blocks, one for each value of the counter, cut to n bytes. -/
theorem prf_eq_take_flatMap (k : Subkeys) (delta : Block) (n : Nat) :
    prf k delta n = (((List.range ((n + 15) / 16)).map (prfBlock k delta)).flatMap bytesOfBlock).take n := by
  rw [prf, List.flatMap_map]

/-- Output byte b comes from the block of counter b / 16. -/
theorem getElem?_prf (k : Subkeys) (delta : Block) (n b : Nat) (hb : b < n) :
    (prf k delta n)[b]? = some (byteOf (prfBlock k delta (b / 16)) (b % 16)) := by
  have hcomputed : b / 16 < (n + 15) / 16 := by omega
  rw [prf_eq_take_flatMap, List.getElem?_take_of_lt hb, getElem?_flatMap_bytesOfBlock, List.getElem?_map,
    List.getElem?_range hcomputed]
  rfl

/-- Settles O55: the length of the keystream, and each byte from the block that covers it. -/
theorem prfKeystream : Obligations.PrfKeystream := fun k delta n => ⟨prf_length k delta n, getElem?_prf k delta n⟩

end Sys2Proof.Machine
end

section
/-! PROOFS. Issue, completion and the interrupt (60_exceptions.md R304, R310, R311). -/

open Sys2Proof.Certificates

namespace Sys2Proof.Machine

/-! ### Completion -/

/-- A command completes with an error, or with the writes of its own meaning. -/
theorem exec_completes_writesOf (i : Instr) (s : State) :
    (∃ e, exec i s = .next (s.raiseError e)) ∨ exec i s = .next (writesOf i s).complete := by
  rw [exec_eq]
  rcases finish_cases s (writesOf i s) (checksOf i s) with ⟨e, -, h⟩ | ⟨-, h⟩
  · exact .inl ⟨e, h⟩
  · exact .inr h

/-- With a word pending, legal or not, the engine's turn raises an error or completes a command's writes. -/
theorem engineTurn_completes (s : State) (hb : s.busy = true) :
    (∃ e, s.engineTurn = .next (s.raiseError e)) ∨ ∃ i, s.engineTurn = .next (writesOf i s).complete := by
  rcases engineTurn_cases s with ⟨hp, -⟩ | ⟨p, i, -, -, hturn⟩ | ⟨p, r, -, -, hturn⟩
  · simp [State.busy, hp] at hb
  · rw [hturn]
    exact (exec_completes_writesOf i s).imp_right fun h => ⟨i, h⟩
  · exact .inl ⟨.illegal, hturn⟩

/-- Everything a step that completes the pending word can do, on any path to the engine's turn. -/
theorem completion_cases (s t : State) (rest : List Event) (hb : s.busy = true) (hn : EngineNext s rest)
    (hstep : step s = .next t) :
    (∃ e, t = { s with script := rest }.raiseError e) ∨ ∃ i, t = (writesOf i { s with script := rest }).complete := by
  rw [step_engineNext s rest hb hn] at hstep
  rcases engineTurn_completes { s with script := rest } hb with ⟨e, h⟩ | ⟨i, h⟩ <;> cases h.symm.trans hstep
  · exact .inl ⟨e, rfl⟩
  · exact .inr ⟨i, rfl⟩

/-- Settles O35: a completion with a code other than 0x00 is `raiseError`, whose assignments are those listed. -/
theorem noPartialEffects : Obligations.NoPartialEffects := by
  intro s t rest hb hn hstep hcode
  rcases completion_cases s t rest hb hn hstep with ⟨e, rfl⟩ | ⟨i, rfl⟩
  · exact ⟨rfl, rfl⟩
  · exact absurd (State.complete_errcode _) hcode

/-! ### Host writes by BUSY -/

/-- While idle no write is dropped. -/
theorem hostWrite_of_idle (s : State) (t : Target) (n : Nat) (v : Word) (h : s.busy = false) :
    s.hostWrite t n v = s.writeTarget t n v := by
  simp [State.hostWrite, h]

/-- While BUSY = 1 a write to a target that R340 lists is dropped. -/
theorem hostWrite_of_dropped (s : State) (t : Target) (n : Nat) (v : Word) (h : s.busy = true)
    (ht : t.droppedWhileBusy = true) : s.hostWrite t n v = s.dropWrite := by
  simp [State.hostWrite, h, ht]

theorem step_write_cmd_idle (s : State) (v : Word) (rest : List Event) (hs : NextWrite s 0x010 4 v rest)
    (h : s.busy = false) : step s = .next ({ s with script := rest }.issue v) := by
  rw [step_write_csr s 0x010 v rest (by decide) (by decide) hs, hostWrite_of_idle { s with script := rest } _ _ _ h]
  rfl

theorem step_write_cmd_busy (s : State) (v : Word) (rest : List Event) (hs : NextWrite s 0x010 4 v rest)
    (h : s.busy = true) : step s = .next { s with script := rest }.dropWrite := by
  rw [step_write_csr s 0x010 v rest (by decide) (by decide) hs,
    hostWrite_of_dropped { s with script := rest } _ _ _ h (by decide)]

theorem step_write_status (s : State) (v : Word) (rest : List Event) (hs : NextWrite s 0x00C 4 v rest) :
    step s = .next ({ s with script := rest }.clearStatus v) := by
  rw [step_write_csr s 0x00C v rest (by decide) (by decide) hs, hostWrite_of_not_dropped _ _ _ _ (by decide)]
  rfl

theorem step_write_ctrl (s : State) (v : Word) (rest : List Event) (hs : NextWrite s 0x008 4 v rest) :
    step s = .next ({ s with script := rest }.writeCtrl v) := by
  rw [step_write_csr s 0x008 v rest (by decide) (by decide) hs, hostWrite_of_not_dropped _ _ _ _ (by decide)]
  rfl

/-- Settles O8: while idle the step is `issue`, while busy it is `dropWrite`. -/
theorem cmdWriteIssues : Obligations.CmdWriteIssues := fun s v rest hs =>
  ⟨fun h => ⟨_, step_write_cmd_idle s v rest hs h, rfl, rfl, rfl, rfl, rfl, rfl, rfl, rfl, rfl, rfl, rfl⟩,
    step_write_cmd_busy s v rest hs⟩

/-! ### The interrupt -/

theorem getLsbD_flagBit_zero (f : Bool) : (flagBit f).getLsbD 0 = f := by cases f <;> rfl

/-- IRQ_EN is bit 0 of CTRL (R42). -/
theorem State.ctrlWord_getLsbD_zero (s : State) : s.ctrlWord.getLsbD 0 = s.irqEn := by
  rw [State.ctrlWord, BitVec.getLsbD_append, if_pos (by decide), getLsbD_flagBit_zero]

/-- DONE is bit 1 of STATUS (R43). -/
theorem State.statusWord_getLsbD_one (s : State) : s.statusWord.getLsbD 1 = s.done := by
  rw [State.statusWord, BitVec.getLsbD_append, if_neg (by decide), BitVec.getLsbD_append, if_pos (by decide),
    getLsbD_flagBit_zero]

/-- A completion leaves the level at IRQ_EN (R310, R312). -/
theorem irq_of_completion (s t : State) (rest : List Event) (hb : s.busy = true) (hn : EngineNext s rest)
    (hstep : step s = .next t) : t.irq = s.irqEn := by
  rcases completion_cases s t rest hb hn hstep with ⟨e, rfl⟩ | ⟨i, rfl⟩
  · simp [State.irq]
  · obtain ⟨hkept, -⟩ := writesOf_kept i { s with script := rest }
    simp [State.irq, hkept.irqEn]

theorem State.writeCtrl_done (s : State) (v : Word) : (s.writeCtrl v).done = (!v.getLsbD 1 && s.done) := by
  unfold State.writeCtrl
  cases v.getLsbD 1 <;> rfl

/-- CTRL's bit 0 is taken as IRQ_EN unless SRST resets it (R42). -/
theorem State.writeCtrl_irqEn (s : State) (v : Word) : (s.writeCtrl v).irqEn = (!v.getLsbD 1 && v.getLsbD 0) := by
  unfold State.writeCtrl
  cases v.getLsbD 1 <;> rfl

/-- No host write sets DONE. -/
theorem done_of_hostWrite (s : State) (t : Target) (n : Nat) (v : Word) (h : (s.hostWrite t n v).done = true) :
    s.done = true := by
  unfold State.hostWrite at h
  split at h
  · exact h
  · cases t with
    | ctrl =>
      rw [State.writeTarget, State.writeCtrl_done] at h
      exact (Bool.and_eq_true_iff.mp h).2
    | status => exact (Bool.and_eq_true_iff.mp h).1
    | cmd => cases h
    | key k w => simpa [State.writeTarget] using h
    | _ => exact h

theorem State.hostRead_done (s : State) (t : Target) (n : Nat) : (s.hostRead t n).done = s.done := by
  unfold State.hostRead
  split <;> rfl

/-- No host access sets DONE: completion is its one source (R310). -/
theorem done_of_hostAccess (s : State) (a : HostAccess) (h : (s.hostAccess a).done = true) : s.done = true := by
  cases a with
  | read addr n => exact (s.hostRead_done _ n).symm.trans h
  | write addr n v => exact done_of_hostWrite s _ n v h

theorem State.irq_of_not_done (s : State) (h : s.done = false) : s.irq = false := by simp [State.irq, h]

theorem State.irq_of_not_enabled (s : State) (h : s.irqEn = false) : s.irq = false := by simp [State.irq, h]

/-- Settles O44: the level by its two bits, its one source by completion and `done_of_hostAccess`, and each clearing
condition by the step that leaves DONE or IRQ_EN at 0. -/
theorem interruptLevel : Obligations.InterruptLevel := by
  refine ⟨fun s => ?_, irq_of_completion, fun s t a rest hs ha hstep hdone => ?_, fun s v rest hs hv => ?_,
    fun s v rest hs hv => ?_, fun s v rest hs hidle => ?_, fun s => ⟨rfl, rfl⟩⟩
  · rw [State.ctrlWord_getLsbD_zero, State.statusWord_getLsbD_one, State.irq]
  · cases (step_access s a rest hs ha).symm.trans hstep
    exact done_of_hostAccess { s with script := rest } a hdone
  · exact ⟨_, step_write_status s v rest hs, State.irq_of_not_done _ (by simp [hv])⟩
  · exact ⟨_, step_write_ctrl s v rest hs, State.irq_of_not_enabled _ (by rw [State.writeCtrl_irqEn, hv, Bool.and_false])⟩
  · exact ⟨_, step_write_cmd_idle s v rest hs hidle, State.irq_of_not_done _ rfl⟩

end Sys2Proof.Machine
end

section
/-! PROOFS. The decoder and the encoder (30_encoding.md R110 to R116). -/

open Sys2Proof.Certificates

namespace Sys2Proof

/-! ### The bits of a word that a row checks -/

/-- The n bits from bit k up. -/
def bitRange (k n : Nat) : Word := (BitVec.allOnes n).setWidth 32 <<< k

theorem and_bitRange_eq_zero_iff (w : Word) (k n : Nat) (h : k + n ≤ 32) :
    w &&& bitRange k n = 0#32 ↔ w.extractLsb' k n = 0#n := by
  constructor <;> intro hz <;> apply BitVec.eq_of_getLsbD_eq <;> intro i hi
  · have hbit := congrArg (fun v => BitVec.getLsbD v (k + i)) hz
    have hk : k + i < 32 := by omega
    simpa [bitRange, hi, hk] using hbit
  · by_cases hin : k ≤ i ∧ i < k + n
    · have hbit := congrArg (fun v => BitVec.getLsbD v (i - k)) hz
      have hs : i - k < n := by omega
      have hk : k + (i - k) = i := by omega
      simp [hs, hk] at hbit
      simp [hbit]
    · simp [bitRange]
      omega

theorem and_or_eq_zero_iff (w m m' : Word) : w &&& (m ||| m') = 0#32 ↔ w &&& m = 0#32 ∧ w &&& m' = 0#32 := by
  rw [BitVec.and_or_distrib_left, BitVec.or_eq_zero_iff]

/-- No reserved bit of w is 1 and no field outside `uses` is other than 0 (R112). -/
def OnlyUses (w : Word) (uses : List Field) : Prop :=
  w &&& reservedMask = 0#32 ∧ ∀ g ∉ uses, w &&& g.mask = 0#32

/-- The five fields of a command word. -/
def allFields : List Field := [.rd, .ra, .rb, .f, .all]

theorem mem_allFields (g : Field) : g ∈ allFields := by cases g <;> decide

theorem and_foldr_masks_eq_zero_iff (w m : Word) (l : List Field) :
    w &&& l.foldr (fun g m => g.mask ||| m) m = 0#32 ↔ w &&& m = 0#32 ∧ ∀ g ∈ l, w &&& g.mask = 0#32 := by
  induction l with
  | nil => simp
  | cons g l ih => rw [List.foldr_cons, and_or_eq_zero_iff, ih, List.forall_mem_cons]; tauto

/-- In every row of the map, the bits the row may not set are the reserved bits and the fields it does not use. -/
theorem not_usedMask_of_row : ∀ c ∈ usesTable, ~~~(usedMask c.2) =
    (allFields.filter (· ∉ c.2)).foldr (fun g m => g.mask ||| m) reservedMask := by decide

theorem and_not_usedMask_eq_zero_iff (w : Word) (c : Nat × List Field) (hc : c ∈ usesTable) :
    w &&& ~~~(usedMask c.2) = 0#32 ↔ OnlyUses w c.2 := by
  rw [not_usedMask_of_row c hc, and_foldr_masks_eq_zero_iff]
  simp [OnlyUses, mem_allFields]

/-- A row's check passes exactly on the words that set no bit beside OPC and the row's fields. -/
theorem needFields_eq_ok_iff (w : Word) (c : Nat × List Field) (hc : c ∈ usesTable) (i j : Instr) :
    needFields w c.2 i = .ok j ↔ OnlyUses w c.2 ∧ i = j := by
  have hunused := and_not_usedMask_eq_zero_iff w c hc
  unfold needFields
  split
  · next h => simp [OnlyUses, h]
  · split
    · next h => simp [← hunused, h]
    · next h => simp [← hunused, not_not.mp h]

/-! ### A word from its fields, and the fields of a word -/

theorem reservedMask_eq : reservedMask = bitRange 11 1 ||| (bitRange 15 1 ||| (bitRange 19 1 ||| bitRange 23 9)) := by
  decide

theorem extractLsb'_eq_zero_iff (w : Word) (k n : Nat) : w.extractLsb' k n = 0#n ↔ w.toNat / 2 ^ k % 2 ^ n = 0 := by
  simp [BitVec.toNat_eq, Nat.shiftRight_eq_div_pow]

theorem and_reservedMask_eq_zero_iff (w : Word) : w &&& reservedMask = 0#32 ↔
    w.toNat / 2 ^ 11 % 2 ^ 1 = 0 ∧ w.toNat / 2 ^ 15 % 2 ^ 1 = 0 ∧ w.toNat / 2 ^ 19 % 2 ^ 1 = 0 ∧
      w.toNat / 2 ^ 23 % 2 ^ 9 = 0 := by
  rw [reservedMask_eq, and_or_eq_zero_iff, and_or_eq_zero_iff, and_or_eq_zero_iff,
    and_bitRange_eq_zero_iff _ _ _ (by decide), and_bitRange_eq_zero_iff _ _ _ (by decide),
    and_bitRange_eq_zero_iff _ _ _ (by decide), and_bitRange_eq_zero_iff _ _ _ (by decide),
    extractLsb'_eq_zero_iff, extractLsb'_eq_zero_iff, extractLsb'_eq_zero_iff, extractLsb'_eq_zero_iff]

theorem toNat_opcOf (w : Word) : (opcOf w).toNat = w.toNat % 2 ^ 8 := by simp [opcOf]
theorem val_rdOf (w : Word) : (rdOf w).val = w.toNat / 2 ^ 8 % 2 ^ 3 := by simp [rdOf, Nat.shiftRight_eq_div_pow]
theorem val_raOf (w : Word) : (raOf w).val = w.toNat / 2 ^ 12 % 2 ^ 3 := by simp [raOf, Nat.shiftRight_eq_div_pow]
theorem val_rbOf (w : Word) : (rbOf w).val = w.toNat / 2 ^ 16 % 2 ^ 3 := by simp [rbOf, Nat.shiftRight_eq_div_pow]
theorem val_fOf (w : Word) : (fOf w).val = w.toNat / 2 ^ 20 % 2 ^ 2 := by simp [fOf, Nat.shiftRight_eq_div_pow]
theorem toNat_allOf (w : Word) : (allOf w).toNat = w.toNat / 2 ^ 22 % 2 ^ 1 := by
  rw [allOf, BitVec.getLsbD, Nat.toNat_testBit, pow_one]

/-- The lowest bit of a field and how many bits it has (R111). -/
def fieldRange : Field → Nat × Nat
  | .rd => (8, 3)
  | .ra => (12, 3)
  | .rb => (16, 3)
  | .f => (20, 2)
  | .all => (22, 1)

theorem mask_eq_bitRange (g : Field) : g.mask = bitRange (fieldRange g).1 (fieldRange g).2 := by cases g <;> decide

theorem and_mask_eq_zero_iff (w : Word) (g : Field) :
    w &&& g.mask = 0#32 ↔ w.toNat / 2 ^ (fieldRange g).1 % 2 ^ (fieldRange g).2 = 0 := by
  rw [mask_eq_bitRange, and_bitRange_eq_zero_iff _ _ _ (by cases g <;> decide), extractLsb'_eq_zero_iff]

theorem toNat_packWord (opc : Nat) (rd ra rb : Reg) (f : Fin 4) (all : Bool) (ho : opc < 2 ^ 8) :
    (packWord opc rd ra rb f all).toNat =
      opc + rd.val * 2 ^ 8 + ra.val * 2 ^ 12 + rb.val * 2 ^ 16 + f.val * 2 ^ 20 + all.toNat * 2 ^ 22 := by
  have hall := all.toNat_le
  rw [packWord, BitVec.toNat_ofNat, Nat.mod_eq_of_lt (by omega)]

/-- A word with no reserved bit set is its fields, each in its place. -/
theorem packWord_fields (w : Word) (h : w &&& reservedMask = 0#32) :
    packWord (opcOf w).toNat (rdOf w) (raOf w) (rbOf w) (fOf w) (allOf w) = w := by
  obtain ⟨h11, h15, h19, h23⟩ := (and_reservedMask_eq_zero_iff w).mp h
  apply BitVec.eq_of_toNat_eq
  rw [toNat_packWord _ _ _ _ _ _ (opcOf w).isLt, toNat_opcOf, val_rdOf, val_raOf, val_rbOf, val_fOf, toNat_allOf]
  have := w.isLt
  omega

/-- A word sets no bit beside OPC and the fields it uses: its other fields are 0. -/
theorem packWord_used_fields (w : Word) (uses : List Field) (h : OnlyUses w uses) :
    packWord (opcOf w).toNat (if .rd ∈ uses then rdOf w else 0) (if .ra ∈ uses then raOf w else 0)
      (if .rb ∈ uses then rbOf w else 0) (if .f ∈ uses then fOf w else 0) (if .all ∈ uses then allOf w else false)
      = w := by
  obtain ⟨hres, hunused⟩ := h
  have hzero := fun g hg => (and_mask_eq_zero_iff w g).mp (hunused g hg)
  have hrd : .rd ∉ uses → 0 = rdOf w := fun hg => Fin.ext ((val_rdOf w).trans (hzero _ hg)).symm
  have hra : .ra ∉ uses → 0 = raOf w := fun hg => Fin.ext ((val_raOf w).trans (hzero _ hg)).symm
  have hrb : .rb ∉ uses → 0 = rbOf w := fun hg => Fin.ext ((val_rbOf w).trans (hzero _ hg)).symm
  have hf : .f ∉ uses → 0 = fOf w := fun hg => Fin.ext ((val_fOf w).trans (hzero _ hg)).symm
  have hall : .all ∉ uses → false = allOf w :=
    fun hg => (Bool.toNat_eq_zero.mp ((toNat_allOf w).trans (hzero _ hg))).symm
  simp only [ite_eq_left_iff.mpr hrd, ite_eq_left_iff.mpr hra, ite_eq_left_iff.mpr hrb, ite_eq_left_iff.mpr hf,
    ite_eq_left_iff.mpr hall, packWord_fields w hres]

section

variable (opc : Nat) (rd ra rb : Reg) (f : Fin 4) (all : Bool) (ho : opc < 2 ^ 8)
include ho

theorem toNat_opcOf_packWord : (opcOf (packWord opc rd ra rb f all)).toNat = opc := by
  rw [toNat_opcOf, toNat_packWord _ _ _ _ _ _ ho]
  omega

theorem rdOf_packWord : rdOf (packWord opc rd ra rb f all) = rd := by
  apply Fin.ext
  rw [val_rdOf, toNat_packWord _ _ _ _ _ _ ho]
  omega

theorem raOf_packWord : raOf (packWord opc rd ra rb f all) = ra := by
  apply Fin.ext
  rw [val_raOf, toNat_packWord _ _ _ _ _ _ ho]
  omega

theorem rbOf_packWord : rbOf (packWord opc rd ra rb f all) = rb := by
  apply Fin.ext
  rw [val_rbOf, toNat_packWord _ _ _ _ _ _ ho]
  omega

theorem fOf_packWord : fOf (packWord opc rd ra rb f all) = f := by
  apply Fin.ext
  rw [val_fOf, toNat_packWord _ _ _ _ _ _ ho]
  omega

theorem allOf_packWord : allOf (packWord opc rd ra rb f all) = all := by
  have hall := all.toNat_le
  have hbit : (allOf (packWord opc rd ra rb f all)).toNat = all.toNat := by
    rw [toNat_allOf, toNat_packWord _ _ _ _ _ _ ho]
    omega
  simpa using congrArg (fun n => decide (n = 1)) hbit

/-- A packed word uses no field but those that are not 0. -/
theorem onlyUses_packWord (uses : List Field) (hrd : .rd ∉ uses → rd = 0) (hra : .ra ∉ uses → ra = 0)
    (hrb : .rb ∉ uses → rb = 0) (hf : .f ∉ uses → f = 0) (hall : .all ∉ uses → all = false) :
    OnlyUses (packWord opc rd ra rb f all) uses := by
  have hle := all.toNat_le
  refine ⟨(and_reservedMask_eq_zero_iff _).mpr ?_, fun g hg => (and_mask_eq_zero_iff _ g).mpr ?_⟩
  · rw [toNat_packWord _ _ _ _ _ _ ho]
    omega
  · rw [toNat_packWord _ _ _ _ _ _ ho]
    cases g <;> simp only [fieldRange]
    case rd => rw [hrd hg]; omega
    case ra => rw [hra hg]; omega
    case rb => rw [hrb hg]; omega
    case f => rw [hf hg]; omega
    case all => rw [hall hg, Bool.toNat_false]; omega

end

/-! ### Decoding an encoded command -/

/-- A packed word that sets only its row's fields passes the row's check. -/
theorem needFields_packWord (c : Nat × List Field) (hc : c ∈ usesTable) (rd ra rb : Reg) (f : Fin 4) (all : Bool)
    (i : Instr) (hrd : .rd ∉ c.2 → rd = 0) (hra : .ra ∉ c.2 → ra = 0) (hrb : .rb ∉ c.2 → rb = 0)
    (hf : .f ∉ c.2 → f = 0) (hall : .all ∉ c.2 → all = false) :
    needFields (packWord c.1 rd ra rb f all) c.2 i = .ok i := by
  have ho : ∀ c ∈ usesTable, c.1 < 2 ^ 8 := by decide
  exact (needFields_eq_ok_iff _ c hc i i).mpr
    ⟨onlyUses_packWord _ _ _ _ _ _ (ho c hc) _ hrd hra hrb hf hall, rfl⟩

/-- Settles O1: the word of a command has the command's opcode and fields and sets no other bit. -/
theorem decodeInvertsEncode : Obligations.DecodeInvertsEncode := by
  intro i hi
  cases i <;> simp only [encode, decode, toNat_opcOf_packWord, rdOf_packWord, raOf_packWord, rbOf_packWord,
    fOf_packWord, allOf_packWord, Nat.reducePow, Nat.reduceLT]
  case ldrk ra f all =>
    have hsel : ¬(all = true ∧ f ≠ 0) := by simpa [Instr.wellFormed, imp_iff_not_or] using hi
    rw [if_neg hsel]
    exact needFields_packWord (0x06, _) (by decide) _ _ _ _ _ _ (by simp) (by simp) (by simp) (by simp) (by simp)
  case ldkey ra f =>
    have hsel : f ≠ 3 := by simpa [Instr.wellFormed] using hi
    rw [if_neg hsel]
    exact needFields_packWord (0x07, _) (by decide) _ _ _ _ _ _ (by simp) (by simp) (by simp) (by simp) (by simp)
  all_goals
    exact needFields_packWord (_, _) (by decide) _ _ _ _ _ _ (by simp) (by simp) (by simp) (by simp) (by simp)

/-! ### What the decoder can answer -/

/-- Word w stands for command i under a row of the map: it has the row's opcode, uses only the row's fields, and is the
word that `encode` packs from them. -/
def StandsFor (w : Word) (i : Instr) : Prop :=
  ∃ c ∈ usesTable, (opcOf w).toNat = c.1 ∧ OnlyUses w c.2 ∧ i.wellFormed = true ∧
    encode i = packWord c.1 (if .rd ∈ c.2 then rdOf w else 0) (if .ra ∈ c.2 then raOf w else 0)
      (if .rb ∈ c.2 then rbOf w else 0) (if .f ∈ c.2 then fOf w else 0) (if .all ∈ c.2 then allOf w else false)

theorem standsFor_of_needFields (w : Word) (opc : Nat) (uses : List Field) (i j : Instr)
    (hopc : (opcOf w).toNat = opc) (h : needFields w uses j = .ok i) (hc : (opc, uses) ∈ usesTable)
    (hwf : j.wellFormed = true)
    (henc : encode j = packWord opc (if .rd ∈ uses then rdOf w else 0) (if .ra ∈ uses then raOf w else 0)
      (if .rb ∈ uses then rbOf w else 0) (if .f ∈ uses then fOf w else 0)
      (if .all ∈ uses then allOf w else false)) : StandsFor w i := by
  obtain ⟨huses, rfl⟩ := (needFields_eq_ok_iff w (opc, uses) hc j i).mp h
  exact ⟨_, hc, hopc, huses, hwf, henc⟩

/-- Everything a legal word can be: one of the twenty rows of R115. -/
theorem standsFor_of_decode (w : Word) (i : Instr) (h : decode w = .ok i) : StandsFor w i := by
  unfold decode at h
  split at h
  case h_7 hopc =>
    split at h
    · cases h
    · next hsel =>
      exact standsFor_of_needFields w _ _ i _ hopc h (by decide)
        (by simpa [Instr.wellFormed, imp_iff_not_or] using hsel) rfl
  case h_8 hopc =>
    split at h
    · cases h
    · next hsel =>
      exact standsFor_of_needFields w _ _ i _ hopc h (by decide) (by simpa [Instr.wellFormed] using hsel) rfl
  case h_21 => cases h
  all_goals exact standsFor_of_needFields w _ _ i _ ‹_› h (by decide) rfl rfl

/-- Settles O2: the word that `encode` packs from the fields of a legal word is the word itself. -/
theorem encodeInvertsDecode : Obligations.EncodeInvertsDecode := by
  intro w i h
  obtain ⟨c, hc, hopc, huses, hwf, henc⟩ := standsFor_of_decode w i h
  exact ⟨hwf, by rw [henc, ← hopc, packWord_used_fields w c.2 huses]⟩

/-- Settles O3: each word is the encoding of its command. -/
theorem sampleWordsDecode : Obligations.SampleWordsDecode :=
  ⟨decodeInvertsEncode (.xor 3 1 2) rfl, decodeInvertsEncode (.ldrk 5 2 false) rfl,
    decodeInvertsEncode (.ldrk 0 0 true) rfl, decodeInvertsEncode (.ldkey 3 1) rfl, decodeInvertsEncode (.e 2 1) rfl,
    decodeInvertsEncode (.stb 4) rfl, decodeInvertsEncode .dec rfl⟩

/-- A word that stands for no command is rejected. -/
theorem decode_error_of_not_standsFor (w : Word) (h : ∀ i, ¬StandsFor w i) : ∃ r, decode w = .error r := by
  cases hd : decode w with
  | ok i => exact absurd (standsFor_of_decode w i hd) (h i)
  | error r => exact ⟨r, rfl⟩

/-- The map gives each opcode one list of fields. -/
theorem uses_unique_of_opcode : ∀ c ∈ usesTable, ∀ c' ∈ usesTable, c.1 = c'.1 → c.2 = c'.2 := by decide

/-- Settles O4: a legal word has an opcode of the map and only its row's bits; the two selectors are checked by name. -/
theorem illegalWordsAreRejected : Obligations.IllegalWordsAreRejected := by
  refine ⟨fun w hno => ?_, fun w hres => ?_, fun w c g hc hopc hg hbits => ?_, fun w hopc hf => ?_,
    fun w hopc hall hf => ?_⟩
  · exact decode_error_of_not_standsFor w fun i ⟨c, hc, hopc, _⟩ => hno c hc hopc.symm
  · exact decode_error_of_not_standsFor w fun i ⟨_, _, _, huses, _⟩ => hres huses.1
  · refine decode_error_of_not_standsFor w fun i ⟨c', hc', hopc', huses, _⟩ => ?_
    rw [uses_unique_of_opcode c hc c' hc' (hopc.symm.trans hopc')] at hg
    exact hbits (huses.2 g hg)
  · exact ⟨.ldkeySelector, by simp [decode, hopc, hf]⟩
  · exact ⟨.ldrkSelector, by simp [decode, hopc, hall, hf]⟩

end Sys2Proof
end

section
/-! PROOFS. The invariant: each operation of the state keeps it, so every step does (10_state.md R34, R36, R51;
60_exceptions.md R300 to R312). -/

open Sys2Proof.Certificates

namespace Sys2Proof.Machine

/-! ### What passed checks say -/

theorem habsChecks_none_iff (s : State) : firstError s.habsChecks = none ↔
    s.kw = 0b111#3 ∧ s.hashv = true ∧ 3 ≤ s.habsTweak ∧ s.habsSrc + s.habsLen ≤ s.params.dmemSize := by
  simp [firstError_none_iff, State.habsChecks, State.keyv_iff, State.outOfRange_eq_false_iff]

theorem prfChecks_none_iff (s : State) : firstError s.prfChecks = none ↔
    s.kw = 0b111#3 ∧ s.hashv = true ∧ s.prfDst + s.prfLen ≤ s.params.dmemSize := by
  simp [firstError_none_iff, State.prfChecks, State.keyv_iff, State.outOfRange_eq_false_iff]

theorem coreChecks_none_iff (s : State) : firstError s.coreChecks = none ↔
    s.kw = 0b111#3 ∧ s.hashv = true ∧ 32 ≤ s.coreLen ∧
      (s.coreSrc + s.coreLen ≤ s.params.dmemSize ∧ s.coreDst + s.coreLen ≤ s.params.dmemSize) ∧
      overlaps s.coreSrc s.coreDst s.coreLen = false := by
  simp [firstError_none_iff, State.coreChecks, State.keyv_iff, State.outOfRange_eq_false_iff]

theorem rangeCheck_none_iff (s : State) (a n : Nat) :
    firstError [(s.outOfRange a n, .range)] = none ↔ a + n ≤ s.params.dmemSize := by
  simp [firstError_none_iff, State.outOfRange_eq_false_iff]

/-- The bytes AEZ-core writes: as many as it reads (R270). -/
theorem length_wideBlock_memRead (k : Subkeys) (d : Nat) (delta : Block) (s : State) (a n : Nat) (h : 32 ≤ n) :
    (wideBlock k d delta (s.memRead a n)).length = n := by
  rw [wideBlock_length _ _ _ _ (by rwa [s.length_memRead]), s.length_memRead]

/-! ### The error codes (R300) -/

theorem ErrCode.code_ne_zero (e : ErrCode) : e.code ≠ 0#8 := by cases e <;> decide

theorem ErrCode.code_toNat_le (e : ErrCode) : e.code.toNat ≤ 7 := by cases e <;> decide

/-! ### The operations -/

namespace State.Inv

variable {s : State}

theorem withScript (h : s.Inv) (moves : List Event) : { s with script := moves }.Inv := { h with }

theorem setB (h : s.Inv) (n : Reg) (v : Block) : (s.setB n v).Inv := { h with }

theorem setRk (h : s.Inv) (n : Fin 4) (v : Block) : (s.setRk n v).Inv := { h with }

theorem setRkAll (h : s.Inv) (v : Block) : (s.setRkAll v).Inv := { h with }

/-- A key write sets the KW bit of the key it changes. -/
theorem setKey (h : s.Inv) (k : KeyName) (v : Block) : (s.setKey k v).Inv := by
  cases k
  case ki => exact { h with
    kiUnwritten := by simp [KeyName.bit]
    kjUnwritten := by simpa [KeyName.bit] using h.kjUnwritten
    klUnwritten := by simpa [KeyName.bit] using h.klUnwritten }
  case kj => exact { h with
    kiUnwritten := by simpa [KeyName.bit] using h.kiUnwritten
    kjUnwritten := by simp [KeyName.bit]
    klUnwritten := by simpa [KeyName.bit] using h.klUnwritten }
  case kl => exact { h with
    kiUnwritten := by simpa [KeyName.bit] using h.kiUnwritten
    kjUnwritten := by simpa [KeyName.bit] using h.kjUnwritten
    klUnwritten := by simp [KeyName.bit] }

theorem loadDelta (h : s.Inv) (v : Block) : (s.loadDelta v).Inv := { h with deltaUnwritten := nofun }

theorem setDelta (h : s.Inv) (v : Block) (hv : s.hashv = true) : (s.setDelta v).Inv :=
  { h with deltaUnwritten := fun h0 => Bool.noConfusion (hv.symm.trans h0) }

theorem zeroize (h : s.Inv) : s.zeroize.Inv :=
  { h with
    kiUnwritten := fun _ => rfl
    kjUnwritten := fun _ => rfl
    klUnwritten := fun _ => rfl
    deltaUnwritten := fun _ => rfl }

/-- A byte string written inside DMEM, or an empty one. -/
theorem memWrite (h : s.Inv) (a : Nat) (l : List Byte) (hin : l = [] ∨ a + l.length ≤ s.params.dmemSize) :
    (s.memWrite a l).Inv :=
  { h with
    memWf := Memory.wf_insertBytes l s.dmem h.memWf a
    memBelow := by
      rcases hin with rfl | hin
      · exact h.memBelow
      · exact Memory.below_insertBytes l s.dmem _ a h.memBelow hin }

/-- Only while idle does the host write ARG (R340). -/
theorem setArg (h : s.Inv) (n : Fin 4) (v : Word) (hidle : s.pending = none) : (s.setArg n v).Inv :=
  { h with pendingSampled := fun p hp => by simp [hidle] at hp }

theorem clearStatus (h : s.Inv) (v : Word) : (s.clearStatus v).Inv :=
  { h with
    pendingClear := fun hb => by
      obtain ⟨hd, he, hc⟩ := h.pendingClear hb
      simp [State.clearStatus, hd, he, hc]
    errIffCode := by
      rw [State.clearStatus_err, State.clearStatus_errcode]
      cases v.getLsbD 2 <;> simp [h.errIffCode]
    codeLegal := by
      rw [State.clearStatus_errcode]
      cases v.getLsbD 2 <;> simp [h.codeLegal] }

/-- Issue samples CMD and ARG and clears the flags (R311). -/
theorem issue (h : s.Inv) (v : Word) : (s.issue v).Inv :=
  { h with
    pendingSampled := fun p hp => by cases hp; exact ⟨rfl, rfl⟩
    pendingClear := fun _ => ⟨rfl, rfl, rfl⟩
    errIffCode := by simp [State.issue]
    codeLegal := by simp [State.issue] }

/-- A successful completion finds ERR at 0, as it is while a command is pending. -/
theorem complete (h : s.Inv) (herr : s.err = false) : s.complete.Inv :=
  { h with
    pendingSampled := nofun
    pendingClear := nofun
    errIffCode := by simp [herr]
    codeLegal := by simp }

theorem raiseError (h : s.Inv) (e : ErrCode) : (s.raiseError e).Inv :=
  { h with
    pendingSampled := nofun
    pendingClear := nofun
    errIffCode := by simp [e.code_ne_zero]
    codeLegal := e.code_toNat_le }

theorem resetRegisters (h : s.Inv) : s.resetRegisters.Inv where
  memWf := h.memWf
  memBelow := h.memBelow
  pendingSampled := nofun
  pendingClear := nofun
  errIffCode := by simp
  codeLegal := by simp
  kiUnwritten _ := rfl
  kjUnwritten _ := rfl
  klUnwritten _ := rfl
  deltaUnwritten _ := rfl

theorem hardReset (h : s.Inv) : s.hardReset.Inv := { h.resetRegisters with memWf := rfl, memBelow := rfl }

/-- An aborted command's draws stay inside DMEM (R331). -/
theorem abortPending (h : s.Inv) : s.abortPending.Inv := by
  unfold State.abortPending
  split
  · exact h
  · next p _ =>
    have hin : drawBytes s.draws (insideCount p.writeRange.1 p.writeRange.2 s.params.dmemSize) = [] ∨
        p.writeRange.1 + (drawBytes s.draws (insideCount p.writeRange.1 p.writeRange.2 s.params.dmemSize)).length
          ≤ s.params.dmemSize := by
      simp only [drawBytes, insideCount, List.map_eq_nil_iff, List.range_eq_nil, List.length_map, List.length_range]
      omega
    exact { h.memWrite _ _ hin with }

theorem softReset (h : s.Inv) : s.softReset.Inv := h.abortPending.resetRegisters

/-! ### The engine -/

/-- The writes of a command whose checks have passed. -/
theorem writesOf (h : s.Inv) (i : Instr) (hpass : firstError (checksOf i s) = none) : (writesOf i s).Inv := by
  cases i
  case nop => exact h
  case ldrk ra f all => cases all <;> exact { h with }
  case ldkey ra f =>
    simp only [Machine.writesOf]
    split
    · exact h.setKey _ _
    · exact h
  case ldd ra => exact h.loadDelta _
  case hinit => exact h.loadDelta _
  case habs => exact h.setDelta _ ((habsChecks_none_iff s).mp hpass).2.1
  case stb ra =>
    have hin := (rangeCheck_none_iff s _ _).mp hpass
    exact h.memWrite _ _ (.inr (by rwa [length_bytesOfBlock]))
  case prf =>
    obtain ⟨-, -, hin⟩ := (prfChecks_none_iff s).mp hpass
    exact h.memWrite _ _ (.inr (by rwa [prf_length]))
  case zero => exact h.zeroize
  case enc =>
    obtain ⟨-, -, hlen, ⟨-, hin⟩, -⟩ := (coreChecks_none_iff s).mp hpass
    exact h.memWrite _ _ (.inr (by rwa [length_wideBlock_memRead _ _ _ _ _ _ hlen]))
  case dec =>
    obtain ⟨-, -, hlen, ⟨-, hin⟩, -⟩ := (coreChecks_none_iff s).mp hpass
    exact h.memWrite _ _ (.inr (by rwa [length_wideBlock_memRead _ _ _ _ _ _ hlen]))
  all_goals exact h.setB _ _

/-- The engine's turn keeps the invariant: with no word pending, with an error, with a success. -/
theorem engineTurn (h : s.Inv) (t : State) (hturn : s.engineTurn = .next t) : t.Inv := by
  rcases engineTurn_cases s with ⟨-, hs⟩ | ⟨p, i, hp, -, hs⟩ | ⟨p, r, -, -, hs⟩
  · cases hs.symm.trans hturn
    exact h
  · rw [exec_eq] at hs
    rcases finish_cases s (Machine.writesOf i s) (checksOf i s) with ⟨e, -, hf⟩ | ⟨hpass, hf⟩ <;>
      cases (hs.trans hf).symm.trans hturn
    · exact h.raiseError e
    · obtain ⟨-, herr, -⟩ := h.pendingClear (by simp [State.busy, hp])
      exact (h.writesOf i hpass).complete ((writesOf_kept i s).2.1.trans herr)
  · cases hs.symm.trans hturn
    exact h.raiseError .illegal

/-! ### The host -/

theorem hostRead (h : s.Inv) (t : Target) (n : Nat) : (s.hostRead t n).Inv := by
  unfold State.hostRead
  split <;> exact { h with }

theorem writeCtrl (h : s.Inv) (v : Word) : (s.writeCtrl v).Inv := by
  unfold State.writeCtrl
  split
  · exact h.softReset
  · exact { h with }

/-- A write that is not dropped; a DMEM write stays inside DMEM, and ARG is written while idle only. -/
theorem writeTarget (h : s.Inv) (t : Target) (n : Nat) (v : Word) (hidle : t.droppedWhileBusy = true → s.pending = none)
    (hin : ∀ a, t = .dmem a → a + n ≤ s.params.dmemSize) : (s.writeTarget t n v).Inv := by
  cases t
  case ctrl => exact h.writeCtrl v
  case status => exact h.clearStatus v
  case cmd => exact h.issue v
  case arg k => exact h.setArg k v (hidle rfl)
  case block k w => exact h.setB _ _
  case delta w => exact h.loadDelta _
  case key k w => exact h.setKey _ _
  case rk k w => exact h.setRk _ _
  case dmem a => exact h.memWrite _ _ (.inr (by simpa using hin a rfl))
  all_goals exact h

theorem hostWrite (h : s.Inv) (t : Target) (n : Nat) (v : Word) (hin : ∀ a, t = .dmem a → a + n ≤ s.params.dmemSize) :
    (s.hostWrite t n v).Inv := by
  unfold State.hostWrite
  split
  · exact { h with }
  · next hb =>
    refine h.writeTarget t n v (fun hd => ?_) hin
    simpa [hd, State.busy] using hb

/-- An admitted access keeps the invariant: inside DMEM it stays below DMEM_SIZE (R86). -/
theorem hostAccess (h : s.Inv) (a : HostAccess) (ha : a.admitted s.params = true) : (s.hostAccess a).Inv := by
  have hin : ∀ x, a.target s.params = .dmem x → x + a.bytes ≤ s.params.dmemSize := by
    intro x hx
    rcases admitted_cases s.params a ha with ⟨hno, -⟩ | ⟨y, hy, -, hle⟩
    · exact absurd hx (hno x)
    · cases hx.symm.trans hy
      exact hle
  cases a with
  | read addr n => exact h.hostRead _ n
  | write addr n v => exact h.hostWrite _ n v hin

end State.Inv

/-- Settles O58: at reset nothing is pending, written or flagged. -/
theorem invariantAtReset : Obligations.InvariantAtReset where
  memWf := rfl
  memBelow := rfl
  pendingSampled := nofun
  pendingClear := nofun
  errIffCode := by decide
  codeLegal := by decide
  kiUnwritten _ := rfl
  kjUnwritten _ := rfl
  klUnwritten _ := rfl
  deltaUnwritten _ := rfl

/-- Settles O59: a step is the engine's turn, a hard reset or an admitted host access, and each keeps the invariant. -/
theorem invariantKept : Obligations.InvariantKept := by
  intro s t h hstep
  rcases step_cases s with ⟨-, hs⟩ | ⟨rest, -, hs⟩ | ⟨rest, -, hs⟩ | ⟨a, rest, -, ha, hs⟩ | ⟨a, rest, -, -, -, hs⟩ |
    ⟨a, rest, -, -, -, hs⟩
  · exact h.engineTurn t (hs.symm.trans hstep)
  · exact (h.withScript rest).engineTurn t (hs.symm.trans hstep)
  · cases hs.symm.trans hstep
    exact (h.withScript rest).hardReset
  · cases hs.symm.trans hstep
    exact (h.withScript rest).hostAccess a ha
  · exact h.engineTurn t (hs.symm.trans hstep)
  · cases hs.symm.trans hstep

end Sys2Proof.Machine
end

section
/-! PROOFS. The engine's turn, issue and completion as steps (60_exceptions.md R302, R311, R312, R317). -/

open Sys2Proof.Certificates

namespace Sys2Proof.Machine

/-- The step that completes a legal pending word, on any path to the engine's turn. -/
theorem step_of_legal (s : State) (p : Pending) (i : Instr) (rest : List Event) (hp : s.pending = some p)
    (hd : decode p.cw = .ok i) (hn : EngineNext s rest) : step s = exec i { s with script := rest } := by
  rw [step_engineNext s rest (by simp [State.busy, hp]) hn]
  exact engineTurn_of_legal { s with script := rest } p i hp hd

theorem engineTurn_of_illegal (s : State) (p : Pending) (r : Reject) (hp : s.pending = some p)
    (hd : decode p.cw = .error r) : s.engineTurn = .next (s.raiseError .illegal) := by
  simp [State.engineTurn, State.runWord, hp, hd]

theorem engineTurn_of_idle (s : State) (hp : s.pending = none) : s.engineTurn = .next s := by
  simp [State.engineTurn, hp]

/-- While a command is pending its word is the one issued (R50). -/
theorem State.issued_of_pending (s : State) (p : Pending) (hp : s.pending = some p) : s.issued = p := by
  simp [State.issued, hp]

/-- The engine's turn leaves no word pending. -/
theorem engineTurn_not_busy (s : State) (hb : s.busy = true) : ∃ t, s.engineTurn = .next t ∧ t.busy = false := by
  rcases engineTurn_completes s hb with ⟨e, h⟩ | ⟨i, h⟩ <;> exact ⟨_, h, rfl⟩

/-- Settles O5: the three paths are those of `EngineNext`; without a move taken the script stays as it is. -/
theorem stepRunsTheDecodedCommand : Obligations.StepRunsTheDecodedCommand := by
  intro s p i hp hd
  refine ⟨fun hs => ?_, fun rest hs => step_of_legal s p i rest hp hd (.inr (.inl hs)), fun a rest hs ha => ?_⟩
  · exact step_of_legal s p i s.script hp hd (.inl ⟨hs, hs⟩)
  · exact step_of_legal s p i s.script hp hd (.inr (.inr ⟨a, rest, hs, ha, rfl⟩))

/-- Settles O6: the engine's turn on a rejected word is `raiseError`. -/
theorem illegalWordCompletesWithIllegal : Obligations.IllegalWordCompletesWithIllegal := by
  intro s p r rest hp hd hn
  refine ⟨{ s with script := rest }.raiseError .illegal, ?_, failed_raiseError _ _, rfl, ?_⟩
  · rw [step_engineNext s rest (by simp [State.busy, hp]) hn]
    exact engineTurn_of_illegal { s with script := rest } p r hp hd
  · rw [State.raiseError_errcmd, State.issued_of_pending { s with script := rest } p hp]

/-- Settles O7: by the case of `step_cases` that the script and BUSY select. -/
theorem idleEngineAndStuckHost : Obligations.IdleEngineAndStuckHost := by
  refine ⟨fun s hp hs => ?_, fun s rest hp hs => ?_, fun s a rest hp hs ha => ?_, fun s p a rest hp hs ha => ?_⟩
  · rw [step, agentStep, hs]
    exact engineTurn_of_idle s hp
  · rw [step, agentStep, hs]
    exact engineTurn_of_idle { s with script := rest } hp
  · rw [step, agentStep, hs]
    exact ⟨stuckReason s.params a, by simp [State.hostTurn, ha, State.busy, hp]⟩
  · have hb : s.busy = true := by simp [State.busy, hp]
    rw [step_engineNext s s.script hb (.inr (.inr ⟨a, rest, hs, ha, rfl⟩))]
    exact engineTurn_not_busy s hb

/-- A run goes on from the state its first step answers. -/
theorem run_succ (k : Nat) (s t : Sys2Proof.core.State) (h : Sys2Proof.core.step s = .next t) :
    Host.Core.run Sys2Proof.core (k + 1) s = Host.Core.run Sys2Proof.core k t := by
  rw [Host.Core.run, h]

theorem run_one (s : Sys2Proof.core.State) : Host.Core.run Sys2Proof.core (0 + 1) s = Sys2Proof.core.step s := by
  rw [Host.Core.run]
  cases Sys2Proof.core.step s <;> rfl

/-- Settles O9: the first step issues the word, the second is the engine's turn on it. -/
theorem issueThenCompletion : Obligations.IssueThenCompletion := by
  intro s v i rest hidle hs hd
  have hissue := step_write_cmd_idle s v (.engine :: rest) hs hidle
  have hrun := step_of_legal ({ s with script := .engine :: rest }.issue v) _ i rest rfl hd (.inr (.inl rfl))
  exact ((run_succ 1 s _ hissue).trans (run_one _)).trans hrun

end Sys2Proof.Machine
end

section
/-! PROOFS. What holds of every command: it completes, its errors are listed, its writes are its own, and it reads the
sampled operands (30_encoding.md R114; 60_exceptions.md R300, R304, R312). -/

open Sys2Proof.Certificates

namespace Sys2Proof.Machine

/-- Settles O33: a command raises an error or completes with the writes of its meaning. -/
theorem everyCommandCompletes : Obligations.EveryCommandCompletes := by
  intro i s
  rcases exec_completes_writesOf i s with ⟨e, h⟩ | h
  · exact ⟨_, h, rfl, rfl, .inr ⟨e, failed_raiseError s e⟩⟩
  · obtain ⟨hkept, herr, herrcmd⟩ := writesOf_kept i s
    exact ⟨_, h, rfl, rfl, .inl (succeeded_complete s _ hkept herr herrcmd)⟩

/-- The checks a command lists are for errors its row of R300 lists. -/
theorem checksOf_listed (i : Instr) (s : State) : ∀ c ∈ checksOf i s, c.2 ∈ errorsOf i := by
  cases i
  case ldkey ra f =>
    simp only [checksOf]
    split <;> simp [errorsOf]
  all_goals
    simp [checksOf, errorsOf, State.tweakChecks, State.habsChecks, State.prfChecks, State.coreChecks]

theorem firstError_mem (l : List (Bool × ErrCode)) (e : ErrCode) (h : firstError l = some e) : (true, e) ∈ l := by
  obtain ⟨before, after, rfl, -⟩ := firstError_some l e h
  simp

/-- Settles O34: the error raised is that of a check the command lists. -/
theorem onlyListedErrors : Obligations.OnlyListedErrors := by
  intro i s t h
  rw [exec_eq] at h
  rcases finish_cases s (writesOf i s) (checksOf i s) with ⟨e, he, hf⟩ | ⟨-, hf⟩ <;> cases hf.symm.trans h
  · exact .inr ⟨e, checksOf_listed i s _ (firstError_mem _ _ he), rfl⟩
  · exact .inl rfl

/-! ### Who writes what -/

section

variable (i : Instr) (s : State)

theorem writesOf_sameBlocks (h : writesBlocks i = false) : SameBlocks s (writesOf i s) := by
  suffices hb : (writesOf i s).b = s.b from fun n => by simp [State.getB, hb]
  cases i <;> cases h
  case ldrk ra f all => cases all <;> rfl
  case ldkey ra f =>
    simp only [writesOf]
    split
    · exact State.setKey_b _ _ _
    · rfl
  all_goals rfl

theorem writesOf_sameKeys (h : writesKeys i = false) : SameKeys s (writesOf i s) := by
  cases i <;> cases h
  case ldrk ra f all => cases all <;> simp [SameKeys, writesOf]
  all_goals simp [SameKeys, writesOf, State.writeCore]

theorem writesOf_sameRk (h : writesRk i = false) : SameRk s (writesOf i s) := by
  suffices hrk : (writesOf i s).rk = s.rk from fun k => by simp [State.getRk, hrk]
  cases i <;> cases h
  case ldkey ra f =>
    simp only [writesOf]
    split
    · exact State.setKey_rk _ _ _
    · rfl
  all_goals rfl

theorem writesOf_sameDelta (h : writesDelta i = false) : SameDelta s (writesOf i s) := by
  cases i <;> cases h
  case ldrk ra f all => cases all <;> simp [SameDelta, writesOf]
  case ldkey ra f =>
    simp only [writesOf]
    split <;> simp [SameDelta]
  all_goals simp [SameDelta, writesOf, State.writeCore]

theorem writesOf_sameMem (h : writesDmem i = false) : SameMem s (writesOf i s) := by
  suffices hdmem : (writesOf i s).dmem = s.dmem by
    obtain ⟨hkept, -⟩ := writesOf_kept i s
    exact fun a => by rw [State.readByte, State.readByte, hdmem, hkept.epoch]
  cases i <;> cases h
  case ldrk ra f all => cases all <;> rfl
  case ldkey ra f =>
    simp only [writesOf]
    split
    · exact State.setKey_dmem _ _ _
    · rfl
  all_goals rfl

end

/-- Settles O36: an error changes none of these, and the writes of a meaning are those of the command's lists. -/
theorem whoWritesWhat : Obligations.WhoWritesWhat := by
  intro i s t h
  rcases exec_completes_writesOf i s with ⟨e, hf⟩ | hf <;> cases hf.symm.trans h
  · have hfailed := failed_raiseError s e
    exact ⟨hfailed.kept, fun _ => hfailed.blocks, fun _ => hfailed.keys, fun _ => hfailed.rk, fun _ => hfailed.delta,
      fun _ => hfailed.mem⟩
  · obtain ⟨hkept, herr, herrcmd⟩ := writesOf_kept i s
    exact ⟨(succeeded_complete s _ hkept herr herrcmd).kept, writesOf_sameBlocks i s, writesOf_sameKeys i s,
      writesOf_sameRk i s, writesOf_sameDelta i s, writesOf_sameMem i s⟩

/-! ### The sampled operands -/

/-- `s` with the ARG registers replaced and the rest, the pending command with it, as it was. -/
def withArg (s : State) (x : Vector Word 4) : State := { s with arg := x }

/-- While a command is pending its operands are the sampled ones, whatever ARG holds (R114). -/
theorem issued_withArg (s : State) (p : Pending) (x : Vector Word 4) (hp : s.pending = some p) :
    (withArg s x).issued = s.issued := by
  rw [State.issued_of_pending s p hp, State.issued_of_pending (withArg s x) p hp]

section

variable (s : State) (x : Vector Word 4) (h : (withArg s x).issued = s.issued)
include h

theorem zextArg_withArg (n : Fin 4) : (withArg s x).zextArg n = s.zextArg n := by rw [State.zextArg, State.zextArg, h]

theorem sextArg_withArg (n : Fin 4) : (withArg s x).sextArg n = s.sextArg n := by rw [State.sextArg, State.sextArg, h]

theorem checksOf_withArg (i : Instr) : checksOf i (withArg s x) = checksOf i s := by
  have hzext := zextArg_withArg s x h
  have hsext := sextArg_withArg s x h
  cases i <;>
    simp only [checksOf, State.tweakChecks, State.habsChecks, State.prfChecks, State.coreChecks, State.tweakI,
      State.tweakJ, State.blockAddr, State.habsTweak, State.habsSrc, State.habsLen, State.prfDst, State.prfLen,
      State.coreSrc, State.coreDst, State.coreLen, hzext, hsext] <;> rfl

theorem writesOf_withArg (i : Instr) : writesOf i (withArg s x) = withArg (writesOf i s) x := by
  have hzext := zextArg_withArg s x h
  have hsext := sextArg_withArg s x h
  cases i
  case ldrk ra f all => cases all <;> rfl
  case ldkey ra f =>
    simp only [writesOf]
    split
    · next k _ => cases k <;> rfl
    · rfl
  case hinit =>
    simp only [writesOf, State.hinitTau, h]
    rfl
  all_goals
    simp only [writesOf, State.muliFactor, State.tweakI, State.tweakJ, State.blockAddr, State.habsTweak, State.habsSrc,
      State.habsLen, State.prfDst, State.prfLen, State.writeCore, State.coreSrc, State.coreDst, State.coreLen, hzext,
      hsext] <;> rfl

end

/-- Settles O37: checks and writes read ARG through the sampled operands only, and no completion touches it. -/
theorem operandsAreSampled : Obligations.OperandsAreSampled := by
  intro i s p x hp
  have hissued := issued_withArg s p x hp
  have hexec : exec i (withArg s x) = finish (withArg s x) (checksOf i s) (withArg (writesOf i s) x) := by
    rw [exec_eq, checksOf_withArg s x hissued, writesOf_withArg s x hissued]
  rcases finish_cases s (writesOf i s) (checksOf i s) with ⟨e, he, hf⟩ | ⟨hpass, hf⟩
  · refine ⟨_, (exec_eq i s).trans hf, hexec.trans ((finish_of_error _ _ _ e he).trans ?_)⟩
    rw [State.raiseError, hissued]
    rfl
  · refine ⟨_, (exec_eq i s).trans hf, hexec.trans ?_⟩
    rw [finish, hpass]
    rfl

end Sys2Proof.Machine
end

section
/-! PROOFS. The commands on blocks, keys, schedule registers and DMEM blocks (40_doubling_block.md R151 to R160;
41_aes.md R181 to R183). -/

open Sys2Proof.Certificates

namespace Sys2Proof.Machine

/-- A command without checks completes with its writes. -/
theorem finish_nil (s t : State) : finish s [] t = .next t.complete := finish_of_pass s t [] (by simp)

/-- A range check passes exactly when the range lies inside DMEM (R303). -/
theorem finish_range_of_le (s t : State) (a n : Nat) (h : a + n ≤ s.params.dmemSize) :
    finish s [(s.outOfRange a n, .range)] t = .next t.complete :=
  finish_of_pass s t _ ((firstError_none_iff _).mp ((rangeCheck_none_iff s a n).mpr h))

theorem finish_range_of_gt (s t : State) (a n : Nat) (h : a + n > s.params.dmemSize) :
    finish s [(s.outOfRange a n, .range)] t = .next (s.raiseError .range) :=
  finish_of_error s t _ .range (by rw [(s.outOfRange_iff a n).mpr h]; rfl)

/-! ### Commands that write one block register -/

/-- Settles O12: XOR's one write; a block XOR itself is 0. -/
theorem xorResult : Obligations.XorResult := by
  intro s rd ra rb
  have hwrites := writesBlock_setB s rd (s.getB ra ^^^ s.getB rb)
  refine ⟨_, (exec_xor rd ra rb s).trans (finish_nil _ _), hwrites, ?_⟩
  rintro rfl
  rw [hwrites.result, BitVec.xor_self]

theorem gfMul_zero (x : Block) : gfMul 0 x = 0#128 := rfl

theorem gfMul_one (x : Block) : gfMul 1 x = x := by simp [gfMul, mulLoop]

/-- Settles O13: MULI's one write, and the multiples 0 and 1. -/
theorem muliResult : Obligations.MuliResult := by
  intro s rd ra
  have hwrites := writesBlock_setB s rd (gfMul s.issued.arg[(0 : Fin 4)].toNat (s.getB ra))
  refine ⟨_, (exec_muli rd ra s).trans (finish_nil _ _), hwrites, fun h0 => ?_, fun h1 => ?_⟩
  · exact hwrites.result.trans (by rw [h0]; exact gfMul_zero _)
  · exact hwrites.result.trans (by rw [h1]; exact gfMul_one _)

/-- Settles O15: AES4's one write; `aes4` is the four rounds. -/
theorem aesFourResult : Obligations.AesFourResult := fun s rd ra =>
  ⟨_, (exec_aes4 rd ra s).trans (finish_nil _ _), writesBlock_setB s rd _⟩

/-- Settles O21: STD's one write. -/
theorem stdResult : Obligations.StdResult := fun s rd =>
  ⟨_, (exec_std rd s).trans (finish_nil _ _), writesBlock_setB s rd _⟩

/-- Byte k of a block read from DMEM is the byte at a + k (R81). -/
theorem byteOf_blockOfBytes_memRead (s : State) (a k : Nat) (hk : k < 16) :
    byteOf (blockOfBytes (s.memRead a 16)) k = s.readByte (a + k) := by
  rw [blockOfBytes, byteOf_blockOfFn _ k hk]
  simp [State.memRead, hk]

/-- Settles O22: LDB's one write inside DMEM, RANGE outside it. -/
theorem ldbResult : Obligations.LdbResult := fun s rd =>
  ⟨fun h => ⟨_, _, (exec_ldb rd s).trans (finish_range_of_le s _ _ _ h), byteOf_blockOfBytes_memRead s _,
      writesBlock_setB s rd _⟩,
    fun h => ⟨_, (exec_ldb rd s).trans (finish_range_of_gt s _ _ _ h), failed_raiseError s .range⟩⟩

/-! ### Commands that write other registers -/

/-- Settles O20: LDD's load of DELTA. -/
theorem lddResult : Obligations.LddResult := fun s ra =>
  ⟨_, (exec_ldd ra s).trans (finish_nil _ _), writesDelta_loadDelta s _⟩

/-- The flags of a command that completes with the writes of its meaning. -/
theorem succeeded_of_writesOf (i : Instr) (s : State) : Succeeded s (writesOf i s).complete := by
  obtain ⟨hkept, herr, herrcmd⟩ := writesOf_kept i s
  exact succeeded_complete s _ hkept herr herrcmd

/-- Settles O16: the two meanings of LDRK by ALL, and its one check. -/
theorem ldrkResult : Obligations.LdrkResult := by
  intro s ra f all
  have hflags := succeeded_of_writesOf (.ldrk ra f all) s
  refine ⟨fun hlegal => ?_, ?_⟩
  · cases all with
    | false =>
      exact ⟨_, (exec_ldrk_one ra f s).trans (finish_of_pass _ _ _ (by simp)), nofun,
        fun _ => ⟨State.getRk_setRk_same s f _, fun k hk => State.getRk_setRk_other s f k _ hk⟩,
        fun _ => rfl, ⟨rfl, rfl, rfl, rfl⟩, ⟨rfl, rfl⟩, fun _ => rfl, hflags⟩
    | true =>
      have hf : f = 0 := by simpa using hlegal
      exact ⟨_, (exec_ldrk_all ra f s).trans (finish_of_pass _ _ _ (by simp [hf])),
        fun _ k => State.getRk_setRkAll s k _, nofun,
        fun _ => rfl, ⟨rfl, rfl, rfl, rfl⟩, ⟨rfl, rfl⟩, fun _ => rfl, hflags⟩
  · rintro rfl hf
    exact ⟨_, (exec_ldrk_all ra f s).trans (finish_of_error _ _ _ .illegal (by simp [firstError, hf])),
      failed_raiseError s .illegal⟩

/-- LDKEY with a selector that names a key writes that key. -/
theorem exec_ldkey_completes (ra : Reg) (f : Fin 4) (k : KeyName) (hk : keySelect f = some k) (s : State) :
    exec (.ldkey ra f) s = .next (s.setKey k (s.getB ra)).complete :=
  (exec_ldkey_some ra f k hk s).trans (finish_nil _ _)

/-- A key write leaves blocks, RK, DELTA and DMEM, and its completion is a success. -/
theorem setKey_frame (s : State) (k : KeyName) (v : Block) :
    SameBlocks s (s.setKey k v).complete ∧ SameRk s (s.setKey k v).complete ∧ SameDelta s (s.setKey k v).complete ∧
      SameMem s (s.setKey k v).complete ∧ Succeeded s (s.setKey k v).complete := by
  cases k <;> exact ⟨fun _ => rfl, fun _ => rfl, ⟨rfl, rfl⟩, fun _ => rfl,
    ⟨⟨rfl, rfl, rfl, rfl, rfl, rfl, rfl, rfl, rfl⟩, rfl, rfl, rfl, rfl, rfl⟩⟩

/-- Settles O17: the key each selector names, and the one that names none. -/
theorem ldkeyResult : Obligations.LdkeyResult := fun s ra =>
  ⟨⟨_, exec_ldkey_completes ra 0 .ki rfl s, rfl, rfl, rfl, rfl, setKey_frame s .ki _⟩,
    ⟨_, exec_ldkey_completes ra 1 .kj rfl s, rfl, rfl, rfl, rfl, setKey_frame s .kj _⟩,
    ⟨_, exec_ldkey_completes ra 2 .kl rfl s, rfl, rfl, rfl, rfl, setKey_frame s .kl _⟩,
    ⟨_, (exec_ldkey_none ra 3 rfl s).trans (finish_of_error _ _ _ .illegal rfl), failed_raiseError s .illegal⟩⟩

/-- Settles O24: ZERO's writes. -/
theorem zeroResult : Obligations.ZeroResult := by
  intro s
  have hflags : Succeeded s s.zeroize.complete := succeeded_of_writesOf .zero s
  refine ⟨s.zeroize.complete, (exec_zero s).trans (finish_nil _ _), fun n => ?_, rfl, rfl, rfl, rfl, rfl, fun k => ?_,
    rfl, rfl, fun _ => rfl, hflags⟩
  · simp [State.getB]
  · simp [State.getRk]

/-! ### STB -/

theorem State.readByte_complete (s : State) (a : Nat) : s.complete.readByte a = s.readByte a := rfl

/-- Settles O23: STB's one write inside DMEM, RANGE outside it. -/
theorem stbResult : Obligations.StbResult := by
  intro s ra
  refine ⟨fun h => ?_, fun h => ⟨_, (exec_stb ra s).trans (finish_range_of_gt s _ _ _ h), failed_raiseError s .range⟩⟩
  have hwrites := writesMem_memWrite s s.blockAddr (bytesOfBlock (s.getB ra))
  have hmem := hwrites.mem
  rw [length_bytesOfBlock] at hmem
  have hstored : ∀ k < 16, (s.memWrite s.blockAddr (bytesOfBlock (s.getB ra))).complete.readByte (s.blockAddr + k)
      = byteOf (s.getB ra) k := by
    intro k hk
    rw [State.readByte_complete, State.readByte_memWrite, length_bytesOfBlock, if_pos (by omega),
      Nat.add_sub_cancel_left, getD_bytesOfBlock _ _ hk]
  exact ⟨_, (exec_stb ra s).trans (finish_range_of_le s _ _ _ h), hstored, hmem, hwrites.blocks, hwrites.keys,
    hwrites.rk, hwrites.delta, hwrites.flags⟩

end Sys2Proof.Machine
end

section
/-! PROOFS. Doubling and integer multiples (40_doubling_block.md R140 to R144), and the offsets built on them
(42_tweak_cipher.md R203). -/

namespace Sys2Proof.Machine

/-! ### XOR -/

theorem xor_xor_cancel_right {n : Nat} (x y : BitVec n) : x ^^^ y ^^^ y = x := by
  rw [BitVec.xor_assoc, BitVec.xor_self, BitVec.xor_zero]

theorem xor_left_comm_bits {n : Nat} (x y z : BitVec n) : x ^^^ (y ^^^ z) = y ^^^ (x ^^^ z) := by
  rw [← BitVec.xor_assoc, BitVec.xor_comm x, BitVec.xor_assoc]

/-- Two sums regrouped. -/
theorem xor_xor_xor_comm {n : Nat} (a b c d : BitVec n) : (a ^^^ b) ^^^ (c ^^^ d) = (a ^^^ c) ^^^ (b ^^^ d) := by
  rw [BitVec.xor_assoc, BitVec.xor_assoc, xor_left_comm_bits b]

/-! ### Doubling -/

/-- Doubling is a shift and the reduction that the top bit selects. -/
theorem dbl_eq_xor (x : Block) : dbl x = (x <<< 1) ^^^ (if x.getLsbD 127 then 0x87#128 else 0#128) := by
  unfold dbl
  split <;> simp

theorem dbl_xor (x y : Block) : dbl (x ^^^ y) = dbl x ^^^ dbl y := by
  have hred : (if (x ^^^ y).getLsbD 127 then 0x87#128 else 0#128)
      = (if x.getLsbD 127 then 0x87#128 else 0#128) ^^^ (if y.getLsbD 127 then 0x87#128 else 0#128) := by
    rw [BitVec.getLsbD_xor]
    cases x.getLsbD 127 <;> cases y.getLsbD 127 <;> rfl
  rw [dbl_eq_xor, dbl_eq_xor x, dbl_eq_xor y, hred, BitVec.shiftLeft_xor_distrib, xor_xor_xor_comm]

/-! ### Multiples -/

/-- The accumulator of R141's loop is only added to. -/
theorem mulLoop_acc (fuel n : Nat) (t r : Block) : mulLoop fuel n t r = r ^^^ mulLoop fuel n t 0#128 := by
  induction fuel generalizing n t r with
  | zero => simp [mulLoop]
  | succ fuel ih =>
    by_cases hn : n = 0
    · simp [mulLoop, hn]
    · simp only [mulLoop, if_neg hn]
      rw [ih, ih (n / 2) (dbl t) (if n % 2 = 1 then 0#128 ^^^ t else 0#128), ← BitVec.xor_assoc]
      split <;> simp

/-- Turns past the last digit do nothing. -/
theorem mulLoop_fuel (fuel fuel' n : Nat) (t r : Block) (h : n ≤ fuel) (h' : n ≤ fuel') :
    mulLoop fuel n t r = mulLoop fuel' n t r := by
  induction fuel generalizing fuel' n t r with
  | zero =>
    obtain rfl : n = 0 := by omega
    cases fuel' <;> simp [mulLoop]
  | succ fuel ih =>
    by_cases hn : n = 0
    · cases fuel' <;> simp [mulLoop, hn]
    · obtain ⟨fuel', rfl⟩ : ∃ m, fuel' = m + 1 := ⟨fuel' - 1, by omega⟩
      simp only [mulLoop, if_neg hn]
      exact ih fuel' _ _ _ (by omega) (by omega)

/-- A multiple by its lowest digit and the rest (R141). -/
theorem gfMul_eq_digit_xor (n : Nat) (x : Block) :
    gfMul n x = (if n % 2 = 1 then x else 0#128) ^^^ gfMul (n / 2) (dbl x) := by
  cases n with
  | zero => simp [gfMul, mulLoop]
  | succ n =>
    rw [gfMul, mulLoop, if_neg (by omega), mulLoop_acc, BitVec.zero_xor, gfMul,
      mulLoop_fuel n ((n + 1) / 2) _ _ _ (by omega) (by omega)]

theorem gfMul_two_mul_add (a b : Nat) (x : Block) (hb : b < 2) :
    gfMul (2 * a + b) x = gfMul a (dbl x) ^^^ gfMul b x := by
  have hmod : (2 * a + b) % 2 = b := by omega
  have hdiv : (2 * a + b) / 2 = a := by omega
  rw [gfMul_eq_digit_xor, hmod, hdiv, BitVec.xor_comm]
  congr 1
  interval_cases b
  · rfl
  · exact (gfMul_one x).symm

/-- The digits of a multiple, split at digit k. -/
theorem gfMul_pow2_mul_add (k a r : Nat) (x : Block) (hr : r < 2 ^ k) :
    gfMul (2 ^ k * a + r) x = gfMul a (pow2 k x) ^^^ gfMul r x := by
  induction k generalizing a r with
  | zero =>
    obtain rfl : r = 0 := by omega
    simp [pow2, gfMul_zero]
  | succ k ih =>
    have hdigit : r / 2 ^ k < 2 := Nat.div_lt_of_lt_mul (by rwa [Nat.pow_succ] at hr)
    have hmod := Nat.mod_lt r (Nat.two_pow_pos k)
    have hsplit : 2 ^ (k + 1) * a + r = 2 ^ k * (2 * a + r / 2 ^ k) + r % 2 ^ k := by
      have := Nat.div_add_mod r (2 ^ k)
      rw [Nat.pow_succ]
      linarith
    have hrest : gfMul r x = gfMul (r / 2 ^ k) (pow2 k x) ^^^ gfMul (r % 2 ^ k) x := by
      rw [← ih _ _ hmod, Nat.div_add_mod]
    rw [hsplit, ih _ _ hmod, gfMul_two_mul_add _ _ _ hdigit, hrest, BitVec.xor_assoc]
    rfl

theorem gfMul_xor_right (n : Nat) (x y : Block) : gfMul n (x ^^^ y) = gfMul n x ^^^ gfMul n y := by
  induction n using Nat.strongRecOn generalizing x y with
  | ind n ih =>
    cases n with
    | zero => simp [gfMul_zero]
    | succ n =>
      rw [gfMul_eq_digit_xor, gfMul_eq_digit_xor _ x, gfMul_eq_digit_xor _ y, dbl_xor, ih _ (by omega),
        xor_xor_xor_comm]
      split <;> simp

theorem gfMul_xor_left (a b : Nat) (x : Block) : gfMul a x ^^^ gfMul b x = gfMul (a ^^^ b) x := by
  induction a using Nat.strongRecOn generalizing b x with
  | ind a ih =>
    cases a with
    | zero => simp [gfMul_zero]
    | succ n =>
      have hdigits : (if (n + 1) % 2 = 1 then x else 0#128) ^^^ (if b % 2 = 1 then x else 0#128)
          = if ((n + 1) ^^^ b) % 2 = 1 then x else 0#128 := by
        simp only [Nat.xor_mod_two_eq_one]
        by_cases ha : (n + 1) % 2 = 1 <;> by_cases hb : b % 2 = 1 <;> simp [ha, hb]
      rw [gfMul_eq_digit_xor, gfMul_eq_digit_xor b, xor_xor_xor_comm, ih _ (by omega), hdigits, ← Nat.xor_div_two,
        ← gfMul_eq_digit_xor]

/-- Settles O49: a multiple digit by digit. -/
theorem doublingLaws : Obligations.DoublingLaws :=
  ⟨dbl_xor, gfMul_xor_left, gfMul_xor_right, fun a r x hr => gfMul_pow2_mul_add 3 a r x hr⟩

/-! ### The offsets -/

theorem sched_core (k : Subkeys) (i : Int) (hi : i < 3) : sched k i = (k.j, k.l, k.i, k.j) := if_pos hi

/-- For i ≥ 0 the cipher is AES4 under the schedule of i (R206). -/
theorem cipherE_of_nonneg (k : Subkeys) (i : Int) (j : Nat) (x : Block) (hi : 0 ≤ i) :
    cipherE k i j x = aes4Sched (sched k i) (x ^^^ ofs k i j) := if_neg (by omega)

theorem ofs_one_eq_two (k : Subkeys) (j : Nat) : ofs k 1 j = ofs k 2 j := by
  rw [ofs_core k 1 j (.inl rfl), ofs_core k 2 j (.inr rfl)]

theorem ofs_zero_zero (k : Subkeys) : ofs k 0 0 = 0#128 := by rw [ofs_low k 0 0 (.inr rfl), gfMul_zero]

/-- Settles O50: each by the line of R200 or R201 it is about; the multiples of J by the digits 8(i - 2) leaves free. -/
theorem tweakConsequences : Obligations.TweakConsequences := by
  intro k
  have hsched : sched k 1 = sched k 2 := by rw [sched_core k 1 (by decide), sched_core k 2 (by decide)]
  refine ⟨fun j _ => ofs_one_eq_two k j, hsched, fun j x _ => ?_, fun j => ?_, ofs_zero_zero k, fun x => ?_,
    fun i j hi _ => ?_⟩
  · rw [cipherE_of_nonneg k 1 j x (by decide), cipherE_of_nonneg k 2 j x (by decide), hsched, ofs_one_eq_two]
  · rw [ofs_low k (-1) j (.inl rfl), ofs_low k 0 j (.inr rfl)]
  · rw [cipherE_of_nonneg k 0 0 x (by decide), ofs_zero_zero, BitVec.xor_zero, sched_core k 0 (by decide)]
    rfl
  · obtain ⟨m, hm⟩ : ∃ m : Nat, (8 * (i - 2)).toNat = 2 ^ 3 * m := ⟨(i - 2).toNat, by omega⟩
    have hj : j % 8 < 2 ^ 3 := Nat.mod_lt j (by decide)
    have hhigh := gfMul_pow2_mul_add 3 m 0 k.j (by decide)
    rw [Nat.add_zero, gfMul_zero, BitVec.xor_zero] at hhigh
    rw [hm, hhigh, gfMul_pow2_mul_add 3 m _ k.j hj]

end Sys2Proof.Machine
end

section
/-! PROOFS. The S-box from its definition, and the steps of a round as bijections (41_aes.md R171 to R175;
42_tweak_cipher.md R207). -/

open Sys2Proof.Certificates

namespace Sys2Proof.Machine

/-! ### The S-box (R171) -/

/-- The inverse of the affine map A of R171: bit t of the result is b_(t+2) ⊕ b_(t+5) ⊕ b_(t+7), indexes mod 8. -/
def affineInverse (x : Byte) : Byte := x.rotateLeft 6 ^^^ x.rotateLeft 3 ^^^ x.rotateLeft 1

/-- The byte the S-box's affine map is applied to: the table with the map and the constant taken off. -/
def gf8Inverse (x : Byte) : Byte := affineInverse (sbox x ^^^ 0x63#8)

theorem affineA_affineInverse : ∀ x : Byte, affineA (affineInverse x) = x := by decide +kernel

/-- It is the inverse in GF(2^8), for each of the 256 entries of the table. -/
theorem gf8Inverse_spec : ∀ x : Byte, if x = 0#8 then gf8Inverse x = 0#8 else gf8Mul x (gf8Inverse x) = 0x01#8 := by
  decide +kernel

theorem gf8Inverse_gf8Inverse : ∀ x : Byte, gf8Inverse (gf8Inverse x) = x := by decide +kernel

/-- Settles O52: y is read off the table, and is the inverse. -/
theorem sboxFromDefinition : Obligations.SboxFromDefinition := by
  intro x
  refine ⟨gf8Inverse x, gf8Inverse_spec x, ?_⟩
  rw [gf8Inverse, affineA_affineInverse, xor_xor_cancel_right]

/-- Equal entries have equal inverses, and the inverse is undone by itself. -/
theorem sbox_injective : Function.Injective sbox := by
  intro x y h
  have hinverse : gf8Inverse x = gf8Inverse y := by rw [gf8Inverse, gf8Inverse, h]
  rw [← gf8Inverse_gf8Inverse x, hinverse, gf8Inverse_gf8Inverse]

/-! ### The steps of a round -/

theorem subBytes_injective : Function.Injective subBytes := by
  intro x y h
  refine block_ext x y fun k hk => sbox_injective ?_
  rw [← byteOf_subBytes x k hk, ← byteOf_subBytes y k hk, h]

/-- Row r of column c moves to column c - r (R172). -/
theorem shiftRows_injective : Function.Injective shiftRows := by
  intro x y h
  refine block_ext x y fun k hk => ?_
  have hto : k % 4 + 4 * ((k / 4 + 4 - k % 4) % 4) < 16 := by omega
  have hfrom : ∀ z : Block, byteOf (shiftRows z) (k % 4 + 4 * ((k / 4 + 4 - k % 4) % 4)) = byteOf z k := by
    intro z
    rw [byteOf_shiftRows z _ hto]
    congr 1
    omega
  rw [← hfrom x, ← hfrom y, h]

theorem xtime_xor (a b : Byte) : xtime (a ^^^ b) = xtime a ^^^ xtime b := by
  have hx : ∀ c : Byte, xtime c = (c <<< 1) ^^^ (if c.getLsbD 7 then 0x1B#8 else 0#8) := by
    intro c
    unfold xtime
    split <;> simp
  have hred : (if (a ^^^ b).getLsbD 7 then 0x1B#8 else 0#8)
      = (if a.getLsbD 7 then 0x1B#8 else 0#8) ^^^ (if b.getLsbD 7 then 0x1B#8 else 0#8) := by
    rw [BitVec.getLsbD_xor]
    cases a.getLsbD 7 <;> cases b.getLsbD 7 <;> rfl
  rw [hx, hx a, hx b, hred, BitVec.shiftLeft_xor_distrib, xor_xor_xor_comm]

/-- The sum of a column. -/
def columnSum (a : Fin 4 → Byte) : Byte := a 0 ^^^ a 1 ^^^ a 2 ^^^ a 3

/-- MixColumns on one column. -/
def mixColumn (a : Fin 4 → Byte) (r : Fin 4) : Byte := mixRow r.val (a 0) (a 1) (a 2) (a 3)

/-- A row of MixColumns: the byte, the column's sum, and twice the sum of the byte and the next one. -/
theorem mixColumn_eq (a : Fin 4 → Byte) (r : Fin 4) :
    mixColumn a r = a r ^^^ columnSum a ^^^ xtime (a r ^^^ a (r + 1)) := by
  match r with
  | 0 | 1 | 2 | 3 =>
    simp [mixColumn, mixRow, times3, columnSum, xtime_xor, BitVec.xor_assoc, BitVec.xor_comm, xor_left_comm_bits]

theorem columnSum_mixColumn (a : Fin 4 → Byte) : columnSum (mixColumn a) = columnSum a := by
  simp only [columnSum, mixColumn_eq a]
  simp [xtime_xor, BitVec.xor_assoc, BitVec.xor_comm, xor_left_comm_bits]

/-- MixColumns twice adds to each byte 4 times the sum of it and the byte two rows on. -/
theorem mixColumn_mixColumn (a : Fin 4 → Byte) (r : Fin 4) :
    mixColumn (mixColumn a) r = a r ^^^ xtime (xtime (a r ^^^ a (r + 2))) := by
  have htwo : r + 1 + 1 = r + 2 := by omega
  rw [mixColumn_eq, columnSum_mixColumn, mixColumn_eq, mixColumn_eq, htwo]
  simp [xtime_xor, BitVec.xor_assoc, BitVec.xor_comm, xor_left_comm_bits]

theorem mixColumn_four_times (a : Fin 4 → Byte) (r : Fin 4) :
    mixColumn (mixColumn (mixColumn (mixColumn a))) r = a r := by
  have hback : r + 2 + 2 = r := by omega
  rw [mixColumn_mixColumn, mixColumn_mixColumn, mixColumn_mixColumn, hback]
  simp [xtime_xor, BitVec.xor_comm, xor_left_comm_bits]

/-- Column c of the state (R170). -/
def columnOf (x : Block) (c : Nat) (r : Fin 4) : Byte := byteOf x (4 * c + r.val)

theorem columnOf_mixColumns (x : Block) (c : Nat) (hc : c < 4) : columnOf (mixColumns x) c = mixColumn (columnOf x c) :=
  funext fun r => byteOf_mixColumns_column x c r.val hc r.isLt

/-- Two states with the same columns are equal. -/
theorem block_ext_columns (x y : Block) (h : ∀ c < 4, columnOf x c = columnOf y c) : x = y := by
  refine block_ext x y fun k hk => ?_
  have hbyte := congrFun (h (k / 4) (by omega)) ⟨k % 4, Nat.mod_lt k (by decide)⟩
  simpa [columnOf, Nat.div_add_mod] using hbyte

/-- MixColumns has order 4. -/
theorem mixColumns_four_times (x : Block) : mixColumns (mixColumns (mixColumns (mixColumns x))) = x := by
  refine block_ext_columns _ _ fun c hc => ?_
  rw [columnOf_mixColumns _ c hc, columnOf_mixColumns _ c hc, columnOf_mixColumns _ c hc, columnOf_mixColumns _ c hc]
  exact funext (mixColumn_four_times _)

theorem mixColumns_injective : Function.Injective mixColumns :=
  Function.LeftInverse.injective (g := fun y => mixColumns (mixColumns (mixColumns y))) mixColumns_four_times

theorem xor_right_injective (k : Block) : Function.Injective fun x : Block => x ^^^ k :=
  Function.LeftInverse.injective (g := fun y => y ^^^ k) fun x => xor_xor_cancel_right x k

theorem aesRound_injective (k : Block) : Function.Injective fun x => aesRound x k :=
  (xor_right_injective k).comp (mixColumns_injective.comp (shiftRows_injective.comp subBytes_injective))

/-! ### The cipher -/

theorem foldl_aesRound_injective (ks : List Block) : Function.Injective fun x => ks.foldl aesRound x := by
  induction ks with
  | nil => exact Function.injective_id
  | cons k ks ih => exact ih.comp (aesRound_injective k)

theorem aes4Sched_injective (ks : Block × Block × Block × Block) : Function.Injective (aes4Sched ks) :=
  foldl_aesRound_injective [ks.1, ks.2.1, ks.2.2.1, ks.2.2.2]

theorem aes10_injective (ki kj kl : Block) : Function.Injective (aes10 ki kj kl) := by
  intro x y h
  unfold aes10 at h
  exact xor_right_injective 0#128 (foldl_aesRound_injective _ h)

/-- The offset is added and the rounds follow, for every tweak (R206). -/
theorem cipherE_injective (k : Subkeys) (i : Int) (j : Nat) : Function.Injective (cipherE k i j) := by
  intro x y h
  unfold cipherE at h
  split at h
  · exact xor_right_injective _ (aes10_injective k.i k.j k.l h)
  · exact xor_right_injective _ (aes4Sched_injective (sched k i) h)

/-- Settles O51: an injective map of the finite set of blocks is a bijection. -/
theorem cipherIsPermutation : Obligations.CipherIsPermutation := fun k i j _ =>
  Finite.injective_iff_bijective.mp (cipherE_injective k i j)

end Sys2Proof.Machine
end

section
/-! PROOFS. OFS, E, HINIT, HABS, PRF, ENC and DEC: what each does when its checks pass, and the first error when one
fails (42_tweak_cipher.md R200 to R211; 43_hash.md R235, R236; 44_prf.md R252; 45_core.md R276, R277; 60_exceptions.md
R303). -/

open Sys2Proof.Certificates

namespace Sys2Proof.Machine

/-! ### The first error -/

/-- A check that holds, with none before it, is the error the command completes with (R303, R304). -/
theorem exec_fails (i : Instr) (s : State) (e : ErrCode) (h : firstError (checksOf i s) = some e) :
    ∃ t, exec i s = .next t ∧ Failed e s t :=
  ⟨_, (exec_eq i s).trans (finish_of_error s _ _ e h), failed_raiseError s e⟩

/-- With no check holding the command completes with its writes. -/
theorem exec_passes (i : Instr) (s : State) (h : firstError (checksOf i s) = none) :
    exec i s = .next (writesOf i s).complete := by
  rw [exec_eq, finish, h]

section

variable (s : State)

theorem tweakChecks_nokey (hk : s.kw ≠ 0b111#3) : firstError s.tweakChecks = some .nokey := by
  simp [State.tweakChecks, firstError, s.keyv_eq_false_iff.mpr hk]

theorem tweakChecks_tweak (hk : s.kw = 0b111#3) (hl : ¬LegalTweak s) : firstError s.tweakChecks = some .tweak := by
  have hlegal : legalTweak s.tweakI s.tweakJ = false := by
    rw [← Bool.not_eq_true, s.legalTweak_issued]
    exact hl
  simp [State.tweakChecks, firstError, s.keyv_iff.mpr hk, hlegal]

theorem habsChecks_nokey (hk : s.kw ≠ 0b111#3) : firstError s.habsChecks = some .nokey := by
  simp [State.habsChecks, firstError, s.keyv_eq_false_iff.mpr hk]

theorem habsChecks_nohash (hk : s.kw = 0b111#3) (hv : s.hashv = false) : firstError s.habsChecks = some .nohash := by
  simp [State.habsChecks, firstError, s.keyv_iff.mpr hk, hv]

theorem habsChecks_tweak (hk : s.kw = 0b111#3) (hv : s.hashv = true) (hi : s.habsTweak < 3) :
    firstError s.habsChecks = some .tweak := by
  simp [State.habsChecks, firstError, s.keyv_iff.mpr hk, hv, hi]

theorem habsChecks_range (hk : s.kw = 0b111#3) (hv : s.hashv = true) (hi : 3 ≤ s.habsTweak)
    (hr : s.habsSrc + s.habsLen > s.params.dmemSize) : firstError s.habsChecks = some .range := by
  simp [State.habsChecks, firstError, s.keyv_iff.mpr hk, hv, hi, (s.outOfRange_iff _ _).mpr hr]

theorem prfChecks_nokey (hk : s.kw ≠ 0b111#3) : firstError s.prfChecks = some .nokey := by
  simp [State.prfChecks, firstError, s.keyv_eq_false_iff.mpr hk]

theorem prfChecks_nohash (hk : s.kw = 0b111#3) (hv : s.hashv = false) : firstError s.prfChecks = some .nohash := by
  simp [State.prfChecks, firstError, s.keyv_iff.mpr hk, hv]

theorem prfChecks_range (hk : s.kw = 0b111#3) (hv : s.hashv = true)
    (hr : s.prfDst + s.prfLen > s.params.dmemSize) : firstError s.prfChecks = some .range := by
  simp [State.prfChecks, firstError, s.keyv_iff.mpr hk, hv, (s.outOfRange_iff _ _).mpr hr]

theorem coreChecks_nokey (hk : s.kw ≠ 0b111#3) : firstError s.coreChecks = some .nokey := by
  simp [State.coreChecks, firstError, s.keyv_eq_false_iff.mpr hk]

theorem coreChecks_nohash (hk : s.kw = 0b111#3) (hv : s.hashv = false) : firstError s.coreChecks = some .nohash := by
  simp [State.coreChecks, firstError, s.keyv_iff.mpr hk, hv]

theorem coreChecks_len (hk : s.kw = 0b111#3) (hv : s.hashv = true) (hm : s.coreLen < 32) :
    firstError s.coreChecks = some .len := by
  simp [State.coreChecks, firstError, s.keyv_iff.mpr hk, hv, hm]

theorem coreChecks_range (hk : s.kw = 0b111#3) (hv : s.hashv = true) (hm : 32 ≤ s.coreLen)
    (hr : s.coreSrc + s.coreLen > s.params.dmemSize ∨ s.coreDst + s.coreLen > s.params.dmemSize) :
    firstError s.coreChecks = some .range := by
  have hbad : (s.outOfRange s.coreSrc s.coreLen || s.outOfRange s.coreDst s.coreLen) = true := by
    rwa [Bool.or_eq_true, State.outOfRange_iff, State.outOfRange_iff]
  simp only [State.coreChecks, firstError, s.keyv_iff.mpr hk, hv, hbad]
  simp [hm]

theorem coreChecks_overlap (hk : s.kw = 0b111#3) (hv : s.hashv = true) (hm : 32 ≤ s.coreLen)
    (hsrc : s.coreSrc + s.coreLen ≤ s.params.dmemSize) (hdst : s.coreDst + s.coreLen ≤ s.params.dmemSize)
    (ho : s.coreSrc ≠ s.coreDst ∧ s.coreSrc < s.coreDst + s.coreLen ∧ s.coreDst < s.coreSrc + s.coreLen) :
    firstError s.coreChecks = some .overlap := by
  have hgood : (s.outOfRange s.coreSrc s.coreLen || s.outOfRange s.coreDst s.coreLen) = false := by
    rw [Bool.or_eq_false_iff, State.outOfRange_eq_false_iff, State.outOfRange_eq_false_iff]
    exact ⟨hsrc, hdst⟩
  simp only [State.coreChecks, firstError, s.keyv_iff.mpr hk, hv, hgood, (overlaps_iff _ _ _).mpr ho]
  simp [hm]

end

/-- Settles O30: both commands list the same two checks. -/
theorem tweakCommandErrors : Obligations.TweakCommandErrors := by
  intro s i hi
  have hchecks : checksOf i s = s.tweakChecks := by
    rcases hi with ⟨rd, rfl⟩ | ⟨rd, ra, rfl⟩ <;> rfl
  refine ⟨fun hk => exec_fails i s .nokey ?_, fun hk hl => exec_fails i s .tweak ?_⟩ <;> rw [hchecks]
  · exact tweakChecks_nokey s hk
  · exact tweakChecks_tweak s hk hl

/-- Settles O31: the first check that holds, for HABS and for PRF. -/
theorem hashAndPrfErrors : Obligations.HashAndPrfErrors :=
  ⟨fun s hk => exec_fails .habs s _ (habsChecks_nokey s hk),
    fun s hk hv => exec_fails .habs s _ (habsChecks_nohash s hk hv),
    fun s hk hv hi => exec_fails .habs s _ (habsChecks_tweak s hk hv hi),
    fun s hk hv hi hr => exec_fails .habs s _ (habsChecks_range s hk hv hi hr),
    fun s hk => exec_fails .prf s _ (prfChecks_nokey s hk),
    fun s hk hv => exec_fails .prf s _ (prfChecks_nohash s hk hv),
    fun s hk hv hr => exec_fails .prf s _ (prfChecks_range s hk hv hr)⟩

/-- Settles O32: the first check that holds; ENC and DEC list the same five. -/
theorem coreErrors : Obligations.CoreErrors := by
  intro s i hi
  have hfails : ∀ e, firstError s.coreChecks = some e → ∃ t, exec i s = .next t ∧ Failed e s t := by
    rcases hi with rfl | rfl
    · exact exec_fails .enc s
    · exact exec_fails .dec s
  refine ⟨fun hk => hfails _ (coreChecks_nokey s hk), fun hk hv => hfails _ (coreChecks_nohash s hk hv),
    fun hk hv hm => hfails _ (coreChecks_len s hk hv hm), fun hk hv hm hr => hfails _ (coreChecks_range s hk hv hm hr),
    fun hk hv hm hsrc hdst hne h1 h2 => hfails _ (coreChecks_overlap s hk hv hm hsrc hdst ⟨?_, h1, h2⟩)⟩
  exact fun heq => hne (BitVec.eq_of_toNat_eq heq)

/-! ### E and HINIT -/

theorem cipherE_of_minus_one (k : Subkeys) (j : Nat) (x : Block) :
    cipherE k (-1) j x = aes10 k.i k.j k.l (x ^^^ gfMul j k.j) := by
  rw [cipherE, if_pos rfl, ofs_low k (-1) j (.inl rfl)]

theorem sched_high (k : Subkeys) (i : Int) (hi : 3 ≤ i) : sched k i = (k.i, k.j, k.l, k.i) := if_neg (by omega)

/-- AES10's pre-whitening adds the zero key, and its ten rounds follow (R178). -/
theorem aes10_eq_rounds (ki kj kl x : Block) : aes10 ki kj kl x =
    aesRound (aesRound (aesRound (aesRound (aesRound (aesRound (aesRound (aesRound (aesRound (aesRound x
      ki) kl) kj) ki) kl) kj) ki) kl) kj) ki := by
  rw [aes10, BitVec.xor_zero]
  rfl

/-- E completes with E(i, j, B[RA]) in B[RD] as its only write. -/
theorem exec_e_completes (rd ra : Reg) (s : State) (hk : s.kw = 0b111#3) (hl : LegalTweak s) :
    exec (.e rd ra) s = .next (s.setB rd (cipherE s.subkeys s.tweakI s.tweakJ (s.getB ra))).complete :=
  (exec_e rd ra s).trans (finish_of_pass _ _ _ (s.tweakChecks_pass hk hl))

/-- Settles O19: E's one write, with the rounds by the tweak index. -/
theorem tweakableCipherResult : Obligations.TweakableCipherResult := by
  intro s rd ra hk hl
  have hwrites := writesBlock_setB s rd (cipherE s.subkeys s.tweakI s.tweakJ (s.getB ra))
  have hnonneg := cipherE_of_nonneg s.subkeys s.tweakI s.tweakJ (s.getB ra)
  refine ⟨_, exec_e_completes rd ra s hk hl, fun hi => ?_, fun h0 h3 => ?_, fun h3 => ?_⟩
  · have hcipher := cipherE_of_minus_one s.subkeys s.tweakJ (s.getB ra)
    rw [aes10_eq_rounds, ← show s.tweakI = -1 from hi] at hcipher
    exact hcipher ▸ hwrites
  · rw [sched_core s.subkeys s.tweakI h3] at hnonneg
    exact hnonneg h0 ▸ hwrites
  · rw [sched_high s.subkeys s.tweakI h3] at hnonneg
    have h0 : 0 ≤ s.tweakI := le_trans (by decide) h3
    exact hnonneg h0 ▸ hwrites

/-- Settles O25: HINIT's load of DELTA with the keys loaded, NOKEY without. -/
theorem hinitResult : Obligations.HinitResult := by
  intro s
  refine ⟨fun hk => ?_, fun hk => exec_fails .hinit s .nokey ?_⟩
  · have hpass : firstError (checksOf .hinit s) = none := by simp [checksOf, firstError, s.keyv_iff.mpr hk]
    exact ⟨_, exec_passes .hinit s hpass, writesDelta_loadDelta s _⟩
  · simp [checksOf, firstError, s.keyv_eq_false_iff.mpr hk]

/-! ### HABS -/

/-- A write of DELTA that leaves HASHV at 1 is a load. -/
theorem setDelta_eq_loadDelta (s : State) (v : Block) (hv : s.hashv = true) : s.setDelta v = s.loadDelta v := by
  rw [State.setDelta, State.loadDelta, ← hv]

/-- Settles O26: HABS's one write, and AEZ-hash grown by one string. -/
theorem habsResult : Obligations.HabsResult := by
  intro s hk hv hi hr
  have hpass := (habsChecks_none_iff s).mpr ⟨hk, hv, hi, hr⟩
  have hwrites := writesDelta_loadDelta s
    (s.delta ^^^ habs s.subkeys (s.habsTweak : Int) (s.memRead s.habsSrc s.habsLen))
  rw [← setDelta_eq_loadDelta s _ hv] at hwrites
  refine ⟨_, exec_passes .habs s hpass, hwrites, fun tau h4 hd => ?_, fun tau nonce ad h5 hd => ?_⟩
  · rw [aezHash_nil]
    refine hwrites.result.trans ?_
    rw [show s.habsTweak = 4 from h4, hd]
    rfl
  · rw [aezHash_append]
    refine hwrites.result.trans ?_
    rw [show s.habsTweak = 5 + ad.length from h5, hd]
    rfl

/-! ### PRF, ENC and DEC -/

/-- Settles O27: PRF's one write, as long as it is asked for. -/
theorem prfResult : Obligations.PrfResult := by
  intro s hk hv hr
  have hpass := (prfChecks_none_iff s).mpr ⟨hk, hv, hr⟩
  exact ⟨prf_length _ _ _, _, exec_passes .prf s hpass, writesMem_memWrite s _ _⟩

/-- The conditions under which ENC and DEC execute are that no check of theirs holds. -/
theorem coreChecks_none_of_ready (s : State) (h : CoreReady s) : firstError s.coreChecks = none := by
  refine (coreChecks_none_iff s).mpr ⟨h.keyv, h.hashv, h.len, ⟨h.src, h.dst⟩, ?_⟩
  rw [← Bool.not_eq_true, overlaps_iff]
  rintro ⟨hne, h1, h2⟩
  rcases h.apart with heq | hle | hle
  · exact hne (congrArg BitVec.toNat heq)
  · exact absurd h2 (Nat.not_lt.mpr hle)
  · exact absurd h1 (Nat.not_lt.mpr hle)

/-- Settles O28: ENC's one write, as long as its input. -/
theorem encResult : Obligations.EncResult := fun s h =>
  ⟨_, exec_passes .enc s (coreChecks_none_of_ready s h), length_wideBlock_memRead _ _ _ _ _ _ h.len,
    writesMem_memWrite s _ _⟩

/-- Settles O29: as ENC, with d = 1. -/
theorem decResult : Obligations.DecResult := fun s h =>
  ⟨_, exec_passes .dec s (coreChecks_none_of_ready s h), length_wideBlock_memRead _ _ _ _ _ _ h.len,
    writesMem_memWrite s _ _⟩

end Sys2Proof.Machine
end

section
/-! PROOFS. The order of two HABS does not matter (43_hash.md R233). -/

open Sys2Proof.Certificates

namespace Sys2Proof.Machine

/-- What HABS with operands x adds to DELTA in state s: Habs of the source, or nothing if a check of it holds. -/
def habsContribution (s : State) (x : Vector Word 4) : Block :=
  match firstError (withHabs s x).habsChecks with
  | none => habs s.subkeys ((withHabs s x).habsTweak : Int) (s.memRead (withHabs s x).habsSrc (withHabs s x).habsLen)
  | some _ => 0#128

/-- Two states that agree on everything HABS reads beside DELTA. -/
structure SameForHabs (s t : State) : Prop where
  subkeys : t.subkeys = s.subkeys
  kw : t.kw = s.kw
  hashv : t.hashv = s.hashv
  params : t.params = s.params
  mem : ∀ a, t.readByte a = s.readByte a

/-- HABS adds its contribution to DELTA and changes nothing that HABS reads. -/
theorem exec_habs_contribution (s t : State) (x : Vector Word 4) (h : exec .habs (withHabs s x) = .next t) :
    t.delta = s.delta ^^^ habsContribution s x ∧ SameForHabs s t := by
  rw [exec_habs] at h
  rcases finish_cases (withHabs s x) _ (withHabs s x).habsChecks with ⟨e, he, hf⟩ | ⟨hpass, hf⟩ <;>
    cases hf.symm.trans h
  · refine ⟨?_, rfl, rfl, rfl, rfl, fun _ => rfl⟩
    rw [habsContribution, he]
    exact (BitVec.xor_zero).symm
  · refine ⟨?_, rfl, rfl, rfl, rfl, fun _ => rfl⟩
    rw [habsContribution, hpass]
    rfl

/-- The contribution does not depend on DELTA. -/
theorem habsContribution_congr (s t : State) (x : Vector Word 4) (h : SameForHabs s t) :
    habsContribution t x = habsContribution s x := by
  have hchecks : (withHabs t x).habsChecks = (withHabs s x).habsChecks := by
    simp only [State.habsChecks, State.keyv, State.outOfRange, withHabs, h.kw, h.hashv, h.params]
    rfl
  rw [habsContribution, habsContribution, hchecks, h.subkeys, State.memRead_congr s t h.mem]
  rfl

/-- Settles O57: the two contributions are added in either order. -/
theorem habsOrderIrrelevant : Obligations.HabsOrderIrrelevant := by
  intro s s1 s2 t1 t2 x y hs1 hs2 ht1 ht2
  obtain ⟨hd1, hsame1⟩ := exec_habs_contribution s s1 x hs1
  obtain ⟨hd2, -⟩ := exec_habs_contribution s1 s2 y hs2
  obtain ⟨he1, hsame2⟩ := exec_habs_contribution s t1 y ht1
  obtain ⟨he2, -⟩ := exec_habs_contribution t1 t2 x ht2
  rw [hd2, hd1, he2, he1, habsContribution_congr s s1 y hsame1, habsContribution_congr s t1 x hsame2,
    BitVec.xor_assoc, BitVec.xor_assoc, BitVec.xor_comm (habsContribution s x)]

end Sys2Proof.Machine
end

section
/-! PROOFS. AEZ-core: decipher inverts encipher and encipher decipher (45_core.md R270 to R282). -/

open Sys2Proof.Certificates

namespace Sys2Proof.Machine

/-! ### Cutting an input into its pieces (R270) -/

/-- The string of some pieces. -/
def joinPieces (p : Pieces) : List Byte :=
  p.pairs.flatMap pairBytes ++ p.frag ++ bytesOfBlock p.xs ++ bytesOfBlock p.xss

theorem length_joinPieces (p : Pieces) : (joinPieces p).length = 32 * p.pairs.length + p.frag.length + 32 := by
  simp only [joinPieces, List.length_append, flatMap_pairBytes_length, length_bytesOfBlock]

/-- A block is read back where it stands in a string. -/
theorem blockAt_append_bytesOfBlock (s t : List Byte) (x : Block) :
    blockAt (s ++ (bytesOfBlock x ++ t)) s.length = x := by
  rw [blockAt, List.drop_left, List.take_left' (length_bytesOfBlock x), blockOfBytes_bytesOfBlock]

/-- The two blocks of pair t of a string of pairs. -/
theorem blockAt_flatMap_pairBytes (l : List (Block × Block)) (rest : List Byte) (t : Nat) (ht : t < l.length) :
    (blockAt (l.flatMap pairBytes ++ rest) (32 * t), blockAt (l.flatMap pairBytes ++ rest) (32 * t + 16)) = l[t] := by
  induction l generalizing t with
  | nil => exact absurd ht t.not_lt_zero
  | cons q l ih =>
    rw [List.flatMap_cons, pairBytes, List.append_assoc, List.append_assoc]
    cases t with
    | zero =>
      rw [blockAt_bytesOfBlock_append_zero, blockAt_bytesOfBlock_append_add, blockAt_bytesOfBlock_append_zero,
        List.getElem_cons_zero]
    | succ t =>
      have hfirst : 32 * (t + 1) = 32 * t + 16 + 16 := by omega
      have hsecond : 32 * (t + 1) + 16 = 32 * t + 16 + 16 + 16 := by omega
      rw [hsecond, hfirst, blockAt_bytesOfBlock_append_add, blockAt_bytesOfBlock_append_add,
        blockAt_bytesOfBlock_append_add, blockAt_bytesOfBlock_append_add, List.getElem_cons_succ]
      exact ih t (Nat.lt_of_succ_lt_succ ht)

/-- Cutting gives the pieces back, when the fragment is shorter than a pair. -/
theorem splitInput_joinPieces (p : Pieces) (hf : p.frag.length < 32) : splitInput (joinPieces p) = p := by
  have hlen := length_joinPieces p
  have hfrag : fragLen (joinPieces p).length = p.frag.length := by rw [fragLen]; omega
  have hpairs : pairCount (joinPieces p).length = p.pairs.length := by rw [pairCount, hfrag]; omega
  have hstart : (p.pairs.flatMap pairBytes).length = 32 * p.pairs.length := flatMap_pairBytes_length _
  have hends : (p.pairs.flatMap pairBytes ++ p.frag).length = 32 * p.pairs.length + p.frag.length := by
    rw [List.length_append, hstart]
  obtain ⟨pairs, frag, xs, xss⟩ := p
  simp only [splitInput, hfrag, hpairs]
  congr 1
  · refine List.ext_getElem (by simp) fun t _ ht => ?_
    rw [List.getElem_map, List.getElem_range, joinPieces, List.append_assoc, List.append_assoc]
    exact blockAt_flatMap_pairBytes pairs _ t ht
  · rw [joinPieces, List.append_assoc, List.append_assoc, ← hstart, List.drop_left, List.take_left]
  · rw [joinPieces, List.append_assoc, ← hends, blockAt_append_bytesOfBlock]
  · have hlast : (pairs.flatMap pairBytes ++ frag ++ bytesOfBlock xs).length
        = 32 * pairs.length + frag.length + 16 := by
      rw [List.length_append, hends, length_bytesOfBlock]
    have := blockAt_append_bytesOfBlock (pairs.flatMap pairBytes ++ frag ++ bytesOfBlock xs) [] xss
    rwa [List.append_nil, hlast] at this

/-- The bytes of a block cut out of a string. -/
theorem bytesOfBlock_blockAt (s : List Byte) (a : Nat) (h : a + 16 ≤ s.length) :
    bytesOfBlock (blockAt s a) = (s.drop a).take 16 := by
  rw [blockAt, bytesOfBlock_blockOfBytes]
  rw [List.length_take, List.length_drop]
  omega

/-- The first n pairs of a string are its first 32n bytes. -/
theorem flatMap_pairs_of_string (s : List Byte) (n : Nat) (h : 32 * n ≤ s.length) :
    ((List.range n).map fun t => (blockAt s (32 * t), blockAt s (32 * t + 16))).flatMap pairBytes
      = s.take (32 * n) := by
  induction n with
  | zero => simp
  | succ n ih =>
    have htake : 32 * (n + 1) = 32 * n + (16 + 16) := by omega
    rw [List.range_succ, List.map_append, List.flatMap_append, ih (by omega), htake, List.take_add, List.take_add]
    simp [pairBytes, bytesOfBlock_blockAt s (32 * n) (by omega), bytesOfBlock_blockAt s (32 * n + 16) (by omega)]

/-- An input of at least 32 bytes is its pieces one after the other. -/
theorem joinPieces_splitInput (s : List Byte) (h : 32 ≤ s.length) : joinPieces (splitInput s) = s := by
  have hcut : 32 * pairCount s.length + fragLen s.length + 32 = s.length := by
    rw [pairCount, fragLen]
    omega
  have hxs := bytesOfBlock_blockAt s (32 * pairCount s.length + fragLen s.length) (by omega)
  have hxss := bytesOfBlock_blockAt s (32 * pairCount s.length + fragLen s.length + 16) (by omega)
  simp only [joinPieces, splitInput]
  rw [flatMap_pairs_of_string s _ (by omega), hxs, hxss, ← List.take_add, ← List.take_add, ← List.take_add,
    List.take_of_length_le (by omega)]

/-! ### The two passes -/

/-- The masked pairs of pass 2 (R275): (V ⊕ E(2, j, S), W ⊕ E(2, j, S)), which are (M', M'') of the pairs from j on. -/
def maskPairs (k : Subkeys) (s : Block) : Nat → List (Block × Block) → List (Block × Block)
  | _, [] => []
  | j, (w, v) :: rest => (v ^^^ cipherE k 2 j s, w ^^^ cipherE k 2 j s) :: maskPairs k s (j + 1) rest

theorem maskPairs_eq_mapIdx (k : Subkeys) (s : Block) (j : Nat) (l : List (Block × Block)) :
    maskPairs k s j l = l.mapIdx fun n q => (q.2 ^^^ cipherE k 2 (n + j) s, q.1 ^^^ cipherE k 2 (n + j) s) := by
  induction l generalizing j with
  | nil => rfl
  | cons q l ih =>
    rw [maskPairs, ih, List.mapIdx_cons, Nat.zero_add]
    simp only [Nat.add_assoc, Nat.add_comm 1 j]

/-- Pass 1 of the decipher finds the masked pairs of the encipher's pass 2. -/
theorem pass1_pass2 (k : Subkeys) (s : Block) (j : Nat) (l : List (Block × Block)) :
    pass1 k j (pass2 k s j l) = maskPairs k s j l := by
  induction l generalizing j with
  | nil => rfl
  | cons q l ih => simp only [pass2, pass1, maskPairs, ih, xor_xor_cancel_right]

theorem map_snd_maskPairs (k : Subkeys) (s : Block) (j : Nat) (l : List (Block × Block)) :
    (maskPairs k s j l).map Prod.snd = pass2M k s j l := by
  induction l generalizing j with
  | nil => rfl
  | cons q l ih => rw [maskPairs, List.map_cons, ih, pass2M]

theorem pass2M_maskPairs (k : Subkeys) (s : Block) (j : Nat) (l : List (Block × Block)) :
    pass2M k s j (maskPairs k s j l) = l.map Prod.snd := by
  induction l generalizing j with
  | nil => rfl
  | cons q l ih => rw [maskPairs, pass2M, ih, List.map_cons, xor_xor_cancel_right]

/-- Pass 2 on the masked pairs of an input's pass 1 gives the input's pairs. -/
theorem pass2_maskPairs_pass1 (k : Subkeys) (s : Block) (j : Nat) (l : List (Block × Block)) :
    pass2 k s j (maskPairs k s j (pass1 k j l)) = l := by
  induction l generalizing j with
  | nil => rfl
  | cons q l ih => simp only [pass1, maskPairs, pass2, ih, xor_xor_cancel_right]

/-- Masking the fragment twice gives it back. -/
theorem fragMask_fragMask (k : Subkeys) (s : Block) (f : List Byte) (hf : f.length < 32) :
    fragMask k s (fragMask k s f) = f := by
  have hlen : (fragMask k s f).length = f.length := fragMask_length k s f (by omega)
  by_cases h16 : f.length ≥ 16
  · rw [fragMask, hlen, if_pos h16, fragMask, if_pos h16]
    have hfirst : (xorBytes (f.take 16) (trunc 16 (cipherE k (-1) 4 s))).length = 16 := by simp; omega
    rw [List.take_left' hfirst, List.drop_left' hfirst, xorBytes_xorBytes _ _ (by simp),
      xorBytes_xorBytes _ _ (by simp; omega), List.take_append_drop]
  · rw [fragMask, hlen, if_neg h16, fragMask, if_neg h16, xorBytes_xorBytes _ _ (by simp; omega)]

/-! ### One direction undoes the other -/

/-- The output of a run as the pieces of the next input (R275): C** comes before C*. -/
def outputPieces (r : CoreRun) : Pieces := { pairs := r.outPairs, frag := r.outFrag, xs := r.css, xss := r.cs }

theorem joinOutput_eq_joinPieces (r : CoreRun) : joinOutput r = joinPieces (outputPieces r) := rfl

/-- A run in the other direction on a run's output meets the first run's values in reverse order (R282). -/
structure Reverses (k : Subkeys) (e c : CoreRun) : Prop where
  wv : c.wv = maskPairs k e.s 1 e.wv
  xa : c.xa = e.ya
  sx : c.sx = e.sy
  sy : c.sy = e.sx
  s : c.s = e.s

/-- What C** adds to Sy is taken off again. -/
theorem xor_cancel_outer (ya sy delta t : Block) : ya ^^^ (sy ^^^ t ^^^ delta ^^^ ya) ^^^ delta ^^^ t = sy := by
  simp [BitVec.xor_comm, xor_left_comm_bits]

/-- The same the other way about: X* comes back from what was added to it. -/
theorem xor_cancel_inner (xa xs delta t : Block) : (xa ^^^ xs ^^^ delta ^^^ t) ^^^ t ^^^ delta ^^^ xa = xs := by
  simp [BitVec.xor_comm, xor_left_comm_bits]

section

variable (k : Subkeys) (d d' : Nat) (hd : d + d' = 1) (delta : Block) (p : Pieces)
include hd

theorem coreRun_reverses :
    Reverses k (coreRun k d delta p) (coreRun k d' delta (outputPieces (coreRun k d delta p))) := by
  have hd' : 1 + d' = 2 - d := by omega
  generalize he : coreRun k d delta p = e
  generalize hc : coreRun k d' delta (outputPieces e) = c
  have hwv : c.wv = maskPairs k e.s 1 e.wv := by
    subst hc he
    exact pass1_pass2 k _ 1 _
  have hxa : c.xa = e.ya := by
    have hc_xa : c.xa = xorAll (c.wv.map Prod.snd) ^^^ fragAbsorb k e.outFrag := by subst hc; rfl
    rw [hc_xa, hwv, map_snd_maskPairs]
    subst he
    rfl
  have hsx : c.sx = e.sy := by
    have hc_sx : c.sx = c.xa ^^^ e.css ^^^ delta ^^^ cipherE k 0 (1 + d') e.cs := by subst hc; rfl
    have he_css : e.css = e.sy ^^^ cipherE k 0 (2 - d) e.cs ^^^ delta ^^^ e.ya := by subst he; rfl
    rw [hc_sx, hxa, he_css, hd', xor_cancel_outer]
  have hsy : c.sy = e.sx := by
    have hc_sy : c.sy = e.cs ^^^ cipherE k (-1) (1 + d') c.sx := by subst hc; rfl
    have he_cs : e.cs = e.sx ^^^ cipherE k (-1) (2 - d) e.sy := by subst he; rfl
    rw [hc_sy, hsx, he_cs, hd', xor_xor_cancel_right]
  have hs : c.s = e.s := by
    have hc_s : c.s = c.sx ^^^ c.sy := by subst hc; rfl
    have he_s : e.s = e.sx ^^^ e.sy := by subst he; rfl
    rw [hc_s, he_s, hsx, hsy, BitVec.xor_comm]
  exact ⟨hwv, hxa, hsx, hsy, hs⟩

/-- The second run puts out the pieces the first one took in. -/
theorem outputPieces_coreRun_coreRun (hf : p.frag.length < 32) :
    outputPieces (coreRun k d' delta (outputPieces (coreRun k d delta p))) = p := by
  have hd' : 2 - d' = 1 + d := by omega
  obtain ⟨hwv, -, hsx, hsy, hs⟩ := coreRun_reverses k d d' hd delta p
  generalize he : coreRun k d delta p = e at *
  generalize hc : coreRun k d' delta (outputPieces e) = c at *
  have hpairs : c.outPairs = p.pairs := by
    have hc_pairs : c.outPairs = pass2 k c.s 1 c.wv := by subst hc; rfl
    have he_wv : e.wv = pass1 k 1 p.pairs := by subst he; rfl
    rw [hc_pairs, hs, hwv, he_wv, pass2_maskPairs_pass1]
  have hfrag : c.outFrag = p.frag := by
    have hc_frag : c.outFrag = fragMask k c.s e.outFrag := by subst hc; rfl
    have he_frag : e.outFrag = fragMask k e.s p.frag := by subst he; rfl
    rw [hc_frag, hs, he_frag, fragMask_fragMask k e.s p.frag hf]
  have hya : c.ya = e.xa := by
    have hc_ya : c.ya = xorAll (pass2M k c.s 1 c.wv) ^^^ fragAbsorb k c.outFrag := by subst hc; rfl
    rw [hc_ya, hs, hwv, pass2M_maskPairs, hfrag]
    subst he
    rfl
  have hcs : c.cs = p.xss := by
    have hc_cs : c.cs = c.sx ^^^ cipherE k (-1) (2 - d') c.sy := by subst hc; rfl
    have he_sy : e.sy = p.xss ^^^ cipherE k (-1) (1 + d) e.sx := by subst he; rfl
    rw [hc_cs, hsx, hsy, hd', he_sy, xor_xor_cancel_right]
  have hcss : c.css = p.xs := by
    have hc_css : c.css = c.sy ^^^ cipherE k 0 (2 - d') c.cs ^^^ delta ^^^ c.ya := by subst hc; rfl
    have he_sx : e.sx = e.xa ^^^ p.xs ^^^ delta ^^^ cipherE k 0 (1 + d) p.xss := by subst he; rfl
    rw [hc_css, hsy, hcs, hya, hd', he_sx, xor_cancel_inner]
  rw [outputPieces, hpairs, hfrag, hcss, hcs]

end

theorem splitInput_frag_lt (text : List Byte) (h : 32 ≤ text.length) : (splitInput text).frag.length < 32 := by
  rw [splitInput_frag_length text h]
  exact Nat.mod_lt _ (by decide)

/-- The next run reads the pieces this one put out. -/
theorem splitInput_wideBlock (k : Subkeys) (d : Nat) (delta : Block) (text : List Byte) (h : 32 ≤ text.length) :
    splitInput (wideBlock k d delta text) = outputPieces (coreRun k d delta (splitInput text)) := by
  have hf := splitInput_frag_lt text h
  have hlen : (outputPieces (coreRun k d delta (splitInput text))).frag.length = (splitInput text).frag.length :=
    fragMask_length k _ _ (by omega)
  rw [wideBlock, joinOutput_eq_joinPieces, splitInput_joinPieces _ (by omega)]

/-- Core in one direction undoes Core in the other (R282). -/
theorem wideBlock_wideBlock (k : Subkeys) (d d' : Nat) (hd : d + d' = 1) (delta : Block) (text : List Byte)
    (h : 32 ≤ text.length) : wideBlock k d' delta (wideBlock k d delta text) = text := by
  rw [wideBlock, splitInput_wideBlock k d delta text h, joinOutput_eq_joinPieces,
    outputPieces_coreRun_coreRun k d d' hd delta _ (splitInput_frag_lt text h), joinPieces_splitInput text h]

/-- Settles O53: both directions by `wideBlock_wideBlock`, the values of the decipher by `coreRun_reverses`. -/
theorem coreInverse : Obligations.CoreInverse := by
  intro k delta text h
  refine ⟨wideBlock_wideBlock k 0 1 rfl delta text h, wideBlock_wideBlock k 1 0 rfl delta text h, ?_⟩
  rintro e c rfl rfl
  rw [splitInput_wideBlock k 0 delta text h]
  obtain ⟨hwv, hxa, hsx, hsy, hs⟩ := coreRun_reverses k 0 1 rfl delta (splitInput text)
  exact ⟨hwv.trans (maskPairs_eq_mapIdx k _ 1 _), hxa, hsx, hsy, hs⟩

/-! ### On the machine -/

/-- ENC leaves DEC in place ready to run. -/
theorem coreReady_withDec (s t : State) (h : CoreReady s) (hk : SameKeys s t) (hd : SameDelta s t)
    (hp : t.params = s.params) :
    CoreReady (withDec t s.issued.arg[(1 : Fin 4)] s.issued.arg[(1 : Fin 4)] s.issued.arg[(2 : Fin 4)]) where
  keyv := hk.2.2.2.trans h.keyv
  hashv := hd.2.trans h.hashv
  len := h.len
  src := hp ▸ h.dst
  dst := hp ▸ h.dst
  apart := .inl rfl

/-- Reading back what a command stored. -/
theorem memRead_of_writesMem (a n : Nat) (l : List Byte) (s t : State) (h : WritesMem a l s t) (hl : l.length = n) :
    t.memRead a n = l := hl ▸ h.stored

/-- DEC in place over the n bytes at a. -/
theorem exec_dec_in_place (t : State) (a n : Word) (h : CoreReady (withDec t a a n)) :
    ∃ v, exec .dec (withDec t a a n) = .next v ∧ v.errcode = 0x00#8 ∧
      v.memRead a.toNat n.toNat = wideBlock t.subkeys 1 t.delta (t.memRead a.toNat n.toNat) := by
  obtain ⟨v, hv, hlen, hwrites⟩ := decResult _ h
  exact ⟨v, hv, hwrites.flags.errcode, memRead_of_writesMem _ _ _ _ v hwrites hlen⟩

/-- Settles O54: DEC reads what ENC wrote, under the same subkeys and DELTA. -/
theorem decUndoesEnc : Obligations.DecUndoesEnc := by
  intro s t hready henc
  obtain ⟨t', ht', hlen, hwrites⟩ := encResult s hready
  obtain rfl : t' = t := by cases ht'.symm.trans henc; rfl
  have hkeys := hwrites.keys
  obtain ⟨v, hv, hcode, hread⟩ := exec_dec_in_place t' _ _
    (coreReady_withDec s t' hready hkeys hwrites.delta hwrites.flags.kept.params)
  refine ⟨v, hv, hcode, ?_⟩
  have hsubkeys : t'.subkeys = s.subkeys := by
    obtain ⟨hki, hkj, hkl, -⟩ := hkeys
    rw [State.subkeys, hki, hkj, hkl, State.subkeys]
  rw [hread, memRead_of_writesMem _ _ _ _ t' hwrites hlen, hsubkeys, hwrites.delta.1]
  exact wideBlock_wideBlock s.subkeys 0 1 rfl _ _ (by rw [State.length_memRead]; exact hready.len)

end Sys2Proof.Machine
end

section
/-! PROOFS. The registers and DMEM as the host reads and writes them (10_state.md R37 to R46; 20_memory.md R82 to R92;
70_reset_and_hazards.md R340). -/

open Sys2Proof.Certificates

namespace Sys2Proof.Machine

/-! ### What the offsets name -/

/-- The words whose writes R340 drops. -/
theorem csrOf_dropped (off : Nat) (h : DroppedOffset off) : (csrOf off).droppedWhileBusy = true := by
  obtain ⟨-, h⟩ := h
  rcases h with rfl | h
  · rfl
  · have hrow : off / 16 = 0x02 ∨ off / 16 = 0x10 ∨ off / 16 = 0x11 ∨ off / 16 = 0x12 ∨ off / 16 = 0x13 ∨
        off / 16 = 0x14 ∨ off / 16 = 0x15 ∨ off / 16 = 0x16 ∨ off / 16 = 0x17 ∨ off / 16 = 0x18 ∨ off / 16 = 0x20 ∨
        off / 16 = 0x21 ∨ off / 16 = 0x22 ∨ off / 16 = 0x24 ∨ off / 16 = 0x25 ∨ off / 16 = 0x26 ∨ off / 16 = 0x27 := by
      omega
    unfold csrOf
    rcases hrow with h | h | h | h | h | h | h | h | h | h | h | h | h | h | h | h | h <;>
      simp [h, Target.droppedWhileBusy]

/-- The words whose reads R92 leaves open. -/
theorem csrOf_drawn (off : Nat) (h : 0x100 ≤ off ∧ off < 0x190) : (csrOf off).drawnWhileBusy = true := by
  have hrow : off / 16 = 0x10 ∨ off / 16 = 0x11 ∨ off / 16 = 0x12 ∨ off / 16 = 0x13 ∨ off / 16 = 0x14 ∨
      off / 16 = 0x15 ∨ off / 16 = 0x16 ∨ off / 16 = 0x17 ∨ off / 16 = 0x18 := by omega
  unfold csrOf
  rcases hrow with h | h | h | h | h | h | h | h | h <;> simp [h, Target.drawnWhileBusy]

/-! ### The steps -/

/-- While BUSY = 1 a read of B, DELTA or DMEM returns the next draw (R92). -/
theorem hostRead_of_drawn (s : State) (t : Target) (n : Nat) (hb : s.busy = true) (ht : t.drawnWhileBusy = true) :
    s.hostRead t n = { s with rdata := Config.busyWord s.draws, draws := s.draws + 1 } := by
  simp [State.hostRead, hb, ht]

theorem hostRead_of_idle (s : State) (t : Target) (n : Nat) (hb : s.busy = false) :
    s.hostRead t n = { s with rdata := s.readTarget t n } := by
  simp [State.hostRead, hb]

/-- The step on an aligned access inside DMEM (R86). -/
theorem step_read_dmem (s : State) (a n : Nat) (rest : List Event) (h : DmemAccess s a n)
    (hs : NextRead s (0x100000 + a) n rest) : step s = .next ({ s with script := rest }.hostRead (.dmem a) n) := by
  obtain ⟨hn, hal, hin⟩ := h
  exact step_read s _ n rest _ hs (admitted_dmem s.params _ a n rfl rfl hn hal hin)
    (targetOf_dmem s.params a (by omega))

theorem step_write_dmem (s : State) (a n : Nat) (v : Word) (rest : List Event) (h : DmemAccess s a n)
    (hs : NextWrite s (0x100000 + a) n v rest) :
    step s = .next ({ s with script := rest }.hostWrite (.dmem a) n v) := by
  obtain ⟨hn, hal, hin⟩ := h
  exact step_write s _ n v rest _ hs (admitted_dmem s.params _ a n rfl rfl hn hal hin)
    (targetOf_dmem s.params a (by omega))

/-- The step on a word write while idle, by the register its offset names. -/
theorem step_write_csr_idle (s : State) (off : Nat) (v : Word) (rest : List Event) (t : Target) (h : off < 0x100000)
    (h4 : off % 4 = 0) (ht : csrOf off = t) (hb : s.busy = false) (hs : NextWrite s off 4 v rest) :
    step s = .next ({ s with script := rest }.writeTarget t 4 v) := by
  rw [step_write_csr s off v rest h h4 hs, ht, hostWrite_of_idle { s with script := rest } t 4 v hb]

/-- The step on a word read while idle, by the register its offset names. -/
theorem step_read_csr_idle (s : State) (off : Nat) (rest : List Event) (t : Target) (h : off < 0x100000)
    (h4 : off % 4 = 0) (ht : csrOf off = t) (hb : s.busy = false) (hs : NextRead s off 4 rest) :
    step s = .next { s with script := rest, rdata := { s with script := rest }.readTarget t 4 } := by
  rw [step_read_csr s off rest h h4 hs, ht, hostRead_of_idle { s with script := rest } t 4 hb]

theorem step_read_ctrl (s : State) (rest : List Event) (hs : NextRead s 0x008 4 rest) :
    step s = .next { s with script := rest, rdata := s.ctrlWord } :=
  step_read_csr_not_drawn s 0x008 rest (by decide) (by decide) rfl hs

theorem step_read_status (s : State) (rest : List Event) (hs : NextRead s 0x00C 4 rest) :
    step s = .next { s with script := rest, rdata := s.statusWord } :=
  step_read_csr_not_drawn s 0x00C rest (by decide) (by decide) rfl hs

theorem step_read_arg (s : State) (n : Fin 4) (rest : List Event) (hs : NextRead s (0x020 + 4 * n.val) 4 rest) :
    step s = .next { s with script := rest, rdata := s.arg[n] } := by
  have hd : (csrOf (0x020 + 4 * n.val)).drawnWhileBusy = false := by rw [csrOf_arg]; rfl
  rw [step_read_csr_not_drawn s _ rest (by omega) (by omega) hd hs, csrOf_arg]
  rfl

/-! ### Reset -/

/-- CTRL without SRST takes IRQ_EN only (R42). -/
theorem writeCtrl_of_not_srst (s : State) (v : Word) (h : v.getLsbD 1 = false) :
    s.writeCtrl v = { s with irqEn := v.getLsbD 0 } := by
  rw [State.writeCtrl, h]
  rfl

theorem writeCtrl_of_srst (s : State) (v : Word) (h : v.getLsbD 1 = true) : s.writeCtrl v = s.softReset := by
  rw [State.writeCtrl, h]
  rfl

/-- The table of R51. -/
theorem registersAtReset_resetRegisters (s : State) : RegistersAtReset s.resetRegisters where
  b n := by simp [State.getB]
  keys := ⟨rfl, rfl, rfl⟩
  kw := ⟨rfl, rfl⟩
  rk k := by simp [State.getRk]
  delta := ⟨rfl, rfl⟩
  arg n := by simp
  cmd := ⟨rfl, rfl⟩
  ctrl := ⟨show State.reset.ctrlWord = 0#32 by decide, rfl⟩
  status := show State.reset.statusWord = 0#32 by decide
  pending := rfl
  irq := rfl

theorem registersAtReset_softReset (s : State) : RegistersAtReset s.softReset :=
  registersAtReset_resetRegisters s.abortPending

theorem registersAtReset_hardReset (s : State) : RegistersAtReset s.hardReset :=
  { registersAtReset_resetRegisters s with }

/-- The step on a write of SRST is a soft reset, busy or not (R331, R340). -/
theorem step_write_srst (s : State) (v : Word) (rest : List Event) (hs : NextWrite s 0x008 4 v rest)
    (h : v.getLsbD 1 = true) : step s = .next { s with script := rest }.softReset := by
  rw [step_write_ctrl s v rest hs, writeCtrl_of_srst _ v h]

theorem step_write_ctrl_not_srst (s : State) (v : Word) (rest : List Event) (hs : NextWrite s 0x008 4 v rest)
    (h : v.getLsbD 1 = false) : step s = .next { s with script := rest, irqEn := v.getLsbD 0 } := by
  rw [step_write_ctrl s v rest hs, writeCtrl_of_not_srst _ v h]

/-! ### While BUSY = 1 -/

/-- Settles O40: the dropped targets by `dropWrite`, CTRL and STATUS by their writes. -/
theorem busyWritesAreDropped : Obligations.BusyWritesAreDropped := by
  intro s rest v hb
  refine ⟨fun off hoff hs => ?_, fun a n ha hs => ?_, step_write_ctrl_not_srst s v rest,
    fun hs hv => ⟨_, step_write_srst s v rest hs hv, registersAtReset_softReset _⟩,
    fun hs => ⟨_, step_write_status s v rest hs, hb, rfl⟩⟩
  · have hdropped := csrOf_dropped off hoff
    obtain ⟨h4, hrange⟩ := hoff
    rw [step_write_csr s off v rest (by omega) h4 hs, hostWrite_of_dropped { s with script := rest } _ _ _ hb hdropped]
    rfl
  · rw [step_write_dmem s a n v rest ha hs, hostWrite_of_dropped { s with script := rest } _ _ _ hb rfl]
    rfl

/-- Settles O41: the drawn targets by a draw, the other registers by their values. -/
theorem busyReadsAreDraws : Obligations.BusyReadsAreDraws := by
  intro s rest
  refine ⟨fun hb off h4 hlo hhi hs => ?_, fun hb a n ha hs => ?_, step_read_ctrl s rest, step_read_status s rest,
    step_read_csr_not_drawn s 0x010 rest (by decide) (by decide) rfl,
    step_read_csr_not_drawn s 0x014 rest (by decide) (by decide) rfl, fun n => step_read_arg s n rest⟩
  · rw [step_read_csr s off rest (by omega) h4 hs,
      hostRead_of_drawn { s with script := rest } _ _ hb (csrOf_drawn off ⟨hlo, hhi⟩)]
  · rw [step_read_dmem s a n rest ha hs, hostRead_of_drawn { s with script := rest } _ _ hb rfl]

/-! ### STATUS and CTRL -/

theorem getLsbD_append_high {w v : Nat} (x : BitVec w) (y : BitVec v) (k : Nat) (h : v ≤ k) :
    (x ++ y).getLsbD k = x.getLsbD (k - v) := by
  rw [BitVec.getLsbD_append, if_neg (by omega)]

theorem getLsbD_append_flagBit {w : Nat} (x : BitVec w) (f : Bool) : (x ++ flagBit f).getLsbD 0 = f := by
  rw [BitVec.getLsbD_append, if_pos (by decide), getLsbD_flagBit_zero]

theorem extractLsb'_append_high {w v : Nat} (x : BitVec w) (y : BitVec v) (k n : Nat) (h : v ≤ k) :
    (x ++ y).extractLsb' k n = x.extractLsb' (k - v) n := BitVec.extractLsb'_append_eq_of_le h

/-- The flags of STATUS (R43). -/
theorem State.statusWord_bits (s : State) : s.statusWord.getLsbD 0 = s.busy ∧ s.statusWord.getLsbD 1 = s.done ∧
    s.statusWord.getLsbD 2 = s.err ∧ s.statusWord.getLsbD 3 = s.ovr ∧
    s.statusWord.getLsbD 4 = decide (s.kw = 0b111#3) ∧ s.statusWord.getLsbD 5 = s.hashv := by
  have hkeyv : s.keyv = decide (s.kw = 0b111#3) := rfl
  rw [← hkeyv]
  unfold State.statusWord
  refine ⟨?_, ?_, ?_, ?_, ?_, ?_⟩ <;>
    simp only [getLsbD_append_high, Nat.reduceLeDiff, Nat.reduceSub, getLsbD_append_flagBit]

/-- The fields of STATUS, and its bits that read 0 (R43). -/
theorem State.statusWord_fields (s : State) : s.statusWord.extractLsb' 6 2 = 0#2 ∧
    s.statusWord.extractLsb' 8 8 = s.errcode ∧ s.statusWord.extractLsb' 16 3 = s.kw ∧
    s.statusWord.extractLsb' 19 13 = 0#13 := by
  unfold State.statusWord
  refine ⟨?_, ?_, ?_, ?_⟩ <;>
    simp only [extractLsb'_append_high, Nat.reduceLeDiff, Nat.reduceSub, BitVec.extractLsb'_append_eq_right,
      BitVec.extractLsb'_eq_self]

theorem State.ctrlWord_getLsbD_pos (s : State) (k : Nat) (hk : 1 ≤ k) : s.ctrlWord.getLsbD k = false := by
  rw [State.ctrlWord, BitVec.getLsbD_append, if_neg (by omega)]
  simp

/-- Settles O42: the bits and fields of the word, the read, and the bits a write clears. -/
theorem statusBitsAndClearing : Obligations.StatusBitsAndClearing := by
  refine ⟨fun s => ?_, step_read_status, fun s v rest hs => ?_⟩
  · obtain ⟨h0, h1, h2, h3, h4, h5⟩ := s.statusWord_bits
    exact ⟨h0, h1, h2, h3, h4, h5, s.statusWord_fields⟩
  · rw [step_write_status s v rest hs, State.clearStatus]
    cases v.getLsbD 1 <;> cases v.getLsbD 2 <;> cases v.getLsbD 3 <;> simp

/-- Settles O43: the word's bits, the read, and the two writes. -/
theorem ctrlWrites : Obligations.CtrlWrites := fun s v rest =>
  ⟨⟨s.ctrlWord_getLsbD_zero, s.ctrlWord_getLsbD_pos⟩, step_read_ctrl s rest, step_write_ctrl_not_srst s v rest,
    fun hs hv => ⟨_, step_write_srst s v rest hs hv, registersAtReset_softReset _⟩⟩

/-! ### Registers while idle (R46) -/

/-- Bytes 4w..4w+3 of the word written, the others as they were (R46). -/
theorem byteOf_setRegWord_bytes (x : Block) (w : Fin 4) (v : Word) : ∀ k < 16, byteOf (setRegWord x w v) k =
    if k / 4 = w.val then v.extractLsb' (8 * (k % 4)) 8 else byteOf x k := byteOf_setRegWord x w v

/-- Settles O45: a write is `setRegWord` of the register its offset names, a read its `regWord`. -/
theorem registerWordAccess : Obligations.RegisterWordAccess := by
  intro s v rest w hb
  refine ⟨fun n hs => ?_, fun n hs => ?_, fun hs => ?_, fun hs => ?_, fun hs => ?_, fun hs => ?_, fun n hs => ?_,
    fun n => step_read_arg s n rest, fun n hs => ?_, fun hs => ?_⟩
  · exact step_write_csr_idle s _ v rest _ (by omega) (by omega) (csrOf_arg n) hb hs
  · exact ⟨_, byteOf_setRegWord_bytes _ w v,
      step_write_csr_idle s _ v rest _ (by omega) (by omega) (csrOf_block n w) hb hs⟩
  · exact ⟨_, byteOf_setRegWord_bytes _ w v,
      step_write_csr_idle s _ v rest _ (by omega) (by omega) (csrOf_delta w) hb hs⟩
  · exact ⟨_, byteOf_setRegWord_bytes _ w v,
      step_write_csr_idle s _ v rest _ (by omega) (by omega) (csrOf_ki w) hb hs⟩
  · exact ⟨_, byteOf_setRegWord_bytes _ w v,
      step_write_csr_idle s _ v rest _ (by omega) (by omega) (csrOf_kj w) hb hs⟩
  · exact ⟨_, byteOf_setRegWord_bytes _ w v,
      step_write_csr_idle s _ v rest _ (by omega) (by omega) (csrOf_kl w) hb hs⟩
  · exact ⟨_, byteOf_setRegWord_bytes _ w v,
      step_write_csr_idle s _ v rest _ (by omega) (by omega) (csrOf_rk n w) hb hs⟩
  · exact ⟨_, wordByte_regWord _ w, step_read_csr_idle s _ rest _ (by omega) (by omega) (csrOf_block n w) hb hs⟩
  · exact ⟨_, wordByte_regWord _ w, step_read_csr_idle s _ rest _ (by omega) (by omega) (csrOf_delta w) hb hs⟩

/-! ### DMEM while idle (R82) -/

theorem wordByte_wordOfBytes (b0 b1 b2 b3 : Byte) : wordByte (wordOfBytes b0 b1 b2 b3) 0 = b0 ∧
    wordByte (wordOfBytes b0 b1 b2 b3) 1 = b1 ∧ wordByte (wordOfBytes b0 b1 b2 b3) 2 = b2 ∧
    wordByte (wordOfBytes b0 b1 b2 b3) 3 = b3 := by
  unfold wordByte wordOfBytes
  refine ⟨?_, ?_, ?_, ?_⟩ <;>
    simp only [extractLsb'_append_high, Nat.reduceLeDiff, Nat.reduceSub, Nat.reduceMul,
      BitVec.extractLsb'_append_eq_right, BitVec.extractLsb'_eq_self]

/-- The word of a DMEM read: the bytes read, and 0 above them (R82, log entry 19). -/
theorem wordByte_dmemWord (s : State) (a n k : Nat) (hn : 1 ≤ n) (hk : k < 4) :
    wordByte (s.dmemWord a n) k = if k < n then s.readByte (a + k) else 0#8 := by
  obtain ⟨h0, h1, h2, h3⟩ := wordByte_wordOfBytes (s.readByte a) (if 1 < n then s.readByte (a + 1) else 0#8)
    (if 2 < n then s.readByte (a + 2) else 0#8) (if 3 < n then s.readByte (a + 3) else 0#8)
  interval_cases k
  · rw [if_pos (by omega)]
    exact h0
  · exact h1
  · exact h2
  · exact h3

/-- The bytes a DMEM write leaves: those of the word in the range, the old ones outside (R82). -/
theorem readByte_write_dmem (s : State) (a n x : Nat) (v : Word) :
    (s.memWrite a ((List.range n).map (wordByte v))).readByte x =
      if a ≤ x ∧ x < a + n then wordByte v (x - a) else s.readByte x := by
  rw [State.readByte_memWrite, List.length_map, List.length_range]
  split
  · next h => simp [show x - a < n by omega]
  · rfl

/-- Settles O46: a write is `memWrite` of the word's bytes, a read `dmemWord`. -/
theorem dmemHostAccess : Obligations.DmemHostAccess := by
  intro s a n v rest hb ha
  have hn : n = 1 ∨ n = 2 ∨ n = 4 := ha.1
  refine ⟨fun hs => ?_, fun hs => ?_⟩
  · have hstep := step_write_dmem s a n v rest ha hs
    rw [hostWrite_of_idle { s with script := rest } _ n v hb] at hstep
    refine ⟨_, hstep, fun k hk => ?_, fun x hx => ?_, rfl⟩
    · exact (readByte_write_dmem _ a n (a + k) v).trans (by rw [if_pos (by omega), Nat.add_sub_cancel_left]; rfl)
    · exact (readByte_write_dmem _ a n x v).trans (if_neg hx)
  · have hstep := step_read_dmem s a n rest ha hs
    rw [hostRead_of_idle { s with script := rest } _ n hb] at hstep
    refine ⟨_, fun k hk => ?_, fun k hnk hk => ?_, hstep⟩
    · exact (wordByte_dmemWord _ a n k (by omega) (by omega)).trans (if_pos hk)
    · exact (wordByte_dmemWord _ a n k (by omega) hk).trans (if_neg (by omega))

end Sys2Proof.Machine
end

section
/-! PROOFS. Hard and soft reset (10_state.md R51; 70_reset_and_hazards.md R330, R331). -/

open Sys2Proof.Certificates

namespace Sys2Proof.Machine

/-! ### DMEM over a reset -/

/-- A soft reset leaves DMEM as the abort does. -/
theorem readByte_softReset (s : State) (x : Nat) : s.softReset.readByte x = s.abortPending.readByte x := by
  rw [State.readByte, State.readByte, State.softReset_dmem, State.softReset_epoch, State.abortPending_epoch]

theorem abortPending_of_idle (s : State) (hp : s.pending = none) : s.abortPending = s := by
  simp [State.abortPending, hp]

/-- An abort draws the bytes of the command's write range that lie inside DMEM, and no others (R331). -/
theorem readByte_abortPending (s : State) (p : Pending) (hp : s.pending = some p) (x : Nat) :
    s.abortPending.readByte x =
      if p.writeRange.1 ≤ x ∧ x < p.writeRange.1 + insideCount p.writeRange.1 p.writeRange.2 s.params.dmemSize then
        Config.abortByte (s.draws + (x - p.writeRange.1))
      else s.readByte x := by
  have hbyte := s.readByte_memWrite p.writeRange.1 x
    (drawBytes s.draws (insideCount p.writeRange.1 p.writeRange.2 s.params.dmemSize))
  rw [drawBytes, List.length_map, List.length_range] at hbyte
  have habort : s.abortPending.readByte x = (s.memWrite p.writeRange.1
      (drawBytes s.draws (insideCount p.writeRange.1 p.writeRange.2 s.params.dmemSize))).readByte x := by
    simp only [State.abortPending, hp]
    rfl
  rw [habort, drawBytes, hbyte]
  split
  · next h =>
    have hin : x - p.writeRange.1 < insideCount p.writeRange.1 p.writeRange.2 s.params.dmemSize := by omega
    simp [hin]
  · rfl

/-- Settles O47: the table by `registersAtReset_resetRegisters`, DMEM by the two resets. -/
theorem resetValues : Obligations.ResetValues := by
  refine ⟨registersAtReset_resetRegisters State.reset, fun s rest hs => ?_, fun s v rest hs hv => ?_,
    fun s => ⟨rfl, rfl⟩⟩
  · refine ⟨{ s with script := rest }.hardReset, ?_, registersAtReset_hardReset _, fun _ => rfl, rfl⟩
    rw [step, agentStep, hs]
  · refine ⟨_, step_write_srst s v rest hs hv, registersAtReset_softReset _, State.softReset_params _, fun hb x => ?_⟩
    have hp : s.pending = none := by simpa [State.busy] using hb
    rw [readByte_softReset, abortPending_of_idle { s with script := rest } hp]
    rfl

/-- The write range of a pending legal word is its command's (R303). -/
theorem writeRange_of_legal (p : Pending) (i : Instr) (hd : decode p.cw = .ok i) :
    p.writeRange = commandWriteRange i p.arg := by
  simp [Pending.writeRange, hd]

/-- A command that does not write DMEM has an empty range. -/
theorem commandWriteRange_empty (i : Instr) (arg : Vector Word 4) (h : writesDmem i = false) :
    (commandWriteRange i arg).2 = 0 := by
  cases i <;> cases h <;> rfl

/-- Settles O48: the range of the command, and the draws the abort puts there. -/
theorem softResetAborts : Obligations.SoftResetAborts := by
  intro s p i v rest hp hd hs hv
  have hrange := writeRange_of_legal p i hd
  have hbyte : ∀ x, { s with script := rest }.softReset.readByte x = _ := fun x =>
    (readByte_softReset _ x).trans (readByte_abortPending { s with script := rest } p hp x)
  refine ⟨_, p.writeRange.1, p.writeRange.2, step_write_srst s v rest hs hv, registersAtReset_softReset _, ?_, ?_, ?_,
    ?_, fun x hx => ?_, fun x hlo hhi hin => ?_⟩
  · rintro ⟨ra, rfl⟩
    rw [hrange]
    exact ⟨rfl, rfl⟩
  · rintro rfl
    rw [hrange]
    exact ⟨rfl, rfl⟩
  · rintro (rfl | rfl) <;> rw [hrange] <;> exact ⟨rfl, rfl⟩
  · rw [hrange]
    exact commandWriteRange_empty i p.arg
  · exact (hbyte x).trans (if_neg hx)
  · have hinside : x < p.writeRange.1 + insideCount p.writeRange.1 p.writeRange.2 s.params.dmemSize := by
      rw [insideCount]
      omega
    exact (hbyte x).trans (if_pos ⟨hlo, hinside⟩)

end Sys2Proof.Machine
end

section
/-! PROOFS. No host access tells the key and schedule registers (10_state.md R33, R35; 60_exceptions.md R319). -/

open Sys2Proof.Certificates

namespace Sys2Proof.Machine

/-- `s` with other contents of the key and schedule registers. -/
def withKeys (s : State) (ki kj kl : Block) (rk : Vector Block 4) : State :=
  { s with ki := ki, kj := kj, kl := kl, rk := rk }

theorem eq_withKeys_of_sameButKeys (s t : State) (h : SameButKeys s t) : t = withKeys s t.ki t.kj t.kl t.rk := h

section

variable (s : State) (ki kj kl : Block) (rk : Vector Block 4)

/-- No target's value comes from those registers: they read 0 (R33, R35). -/
theorem readTarget_withKeys (g : Target) (n : Nat) : (withKeys s ki kj kl rk).readTarget g n = s.readTarget g n := by
  cases g <;> rfl

theorem sameButKeys_hostRead (g : Target) (n : Nat) :
    SameButKeys (s.hostRead g n) ((withKeys s ki kj kl rk).hostRead g n) := by
  have hbusy : (withKeys s ki kj kl rk).busy = s.busy := rfl
  unfold State.hostRead
  rw [readTarget_withKeys, hbusy]
  split <;> rfl

theorem sameButKeys_softReset : SameButKeys s.softReset (withKeys s ki kj kl rk).softReset := by
  have habort : (withKeys s ki kj kl rk).abortPending = withKeys s.abortPending ki kj kl rk := by
    have hpending : (withKeys s ki kj kl rk).pending = s.pending := rfl
    unfold State.abortPending
    rw [hpending]
    cases s.pending <;> rfl
  rw [State.softReset, State.softReset, habort]
  rfl

/-- Those registers come into a write only as their own old bytes. -/
theorem sameButKeys_writeTarget (g : Target) (n : Nat) (v : Word) :
    SameButKeys (s.writeTarget g n v) ((withKeys s ki kj kl rk).writeTarget g n v) := by
  cases g
  case ctrl =>
    simp only [State.writeTarget, State.writeCtrl]
    split
    · exact sameButKeys_softReset s ki kj kl rk
    · rfl
  case key k w => cases k <;> rfl
  all_goals rfl

theorem sameButKeys_hostWrite (g : Target) (n : Nat) (v : Word) :
    SameButKeys (s.hostWrite g n v) ((withKeys s ki kj kl rk).hostWrite g n v) := by
  have hbusy : (withKeys s ki kj kl rk).busy = s.busy := rfl
  unfold State.hostWrite
  rw [hbusy]
  split
  · rfl
  · exact sameButKeys_writeTarget s ki kj kl rk g n v

theorem sameButKeys_hostAccess (a : HostAccess) :
    SameButKeys (s.hostAccess a) ((withKeys s ki kj kl rk).hostAccess a) := by
  cases a with
  | read addr n => exact sameButKeys_hostRead s ki kj kl rk _ n
  | write addr n v => exact sameButKeys_hostWrite s ki kj kl rk _ n v

end

/-- Settles O60: the two steps are the same access, and the word read is not in the registers that differ. -/
theorem keysDoNotReachTheHost : Obligations.KeysDoNotReachTheHost := by
  intro s t a rest h hs ha
  rw [eq_withKeys_of_sameButKeys s t h]
  have haccess := sameButKeys_hostAccess { s with script := rest } t.ki t.kj t.kl t.rk a
  exact ⟨_, _, step_access s a rest hs ha, step_access (withKeys s t.ki t.kj t.kl t.rk) a rest hs ha, haccess,
    (congrArg State.rdata haccess).symm⟩

end Sys2Proof.Machine
end
